-- ==== Sys2Proof/Word.lean ====
section
/-! DEFINITION. The word types of the LZW encoder engine (spec 00_scope.md rule R11: unsigned values of a stated width). -/

namespace Sys2Proof

/-- A byte is 8 bits (R11): a pixel, a byte of the output, an entry of the block buffer. -/
abbrev Byte := BitVec 8

/-- A code of the code space 0..4095 (R90), and so a prefix ENT (R27). -/
abbrev Code := BitVec 12

/-- A composite key FCODE of a (prefix, pixel) pair (R96). -/
abbrev Key := BitVec 20

/-- A slot number of HT and CT as a 13-bit value (R37, R133); 0..5002 exist (R63). -/
abbrev Slot := BitVec 13

/-- A 32-bit register or pixel address (R9: LEN_BITS). -/
abbrev Word := BitVec 32

end Sys2Proof
end

