-- ==== Sys2Proof/Config.lean ====
section
/-! DEFINITION. What is fixed for the engine (spec 00_scope.md rule R9) and the free values: what the spec leaves open. -/

namespace Sys2Proof.Config

/-- HSIZE: slots of the key table and of the code table (R9). -/
@[simp] abbrev hSize : Nat := 5003

/-- MAX_BITS: the largest code width (R9). -/
@[simp] abbrev maxBits : Nat := 12

/-- MAX_CODES: the size of the code space (R9). -/
@[simp] abbrev maxCodes : Nat := 4096

/-- BLOCK_MAX: the largest data length of one sub-block (R9). -/
@[simp] abbrev blockMax : Nat := 254

/-- KEY_SHIFT: the shift of the pixel in the composite key (R9, D8). -/
@[simp] abbrev keyShift : Nat := 12

/-- HSHIFT: the shift of the pixel in the primary index (R9, D7). -/
@[simp] abbrev hShift : Nat := 4

/-- DEPTH_MAX: the largest legal colour depth (R9, D6). -/
@[simp] abbrev depthMax : Nat := 8

/-- What a byte of PIX that nothing has written reads as. DESIGN CHOICE (log 9), unsafe: the spec gives the host's buffer no
contents. -/
@[simp] abbrev pixUnwritten : Byte := 0#8

/-- The platform's placement of the CSR space and of PIX in its own address map: OPEN parameters of the spec (R72, D5). The
engine sees CSR indices and PIX from address 0, so no rule reads them (log 20). -/
opaque csrBase : Nat
opaque pixBase : Nat

end Sys2Proof.Config

namespace Sys2Proof

/-- The sink's answer to a byte (45_block_writer.md rule R216). `silent`: it never answers, a hang (R216, R283, U5). -/
inductive SinkAnswer where
  | accept
  | fail
  | silent
  deriving DecidableEq, Repr, Inhabited

namespace Config

/-! Free values. Each is an uninterpreted function of the draw counter (`State.draws`): nothing constrains it. -/

/-- The sink's answer where the environment's list of answers has ended (R216, U4; log 4). -/
opaque sinkAnswer : Nat → SinkAnswer

/-- A byte of PIX that the host wrote during the run (R75, U3; log 10). -/
opaque drawPixel : Nat → Byte

/-- Whether the sink kept the byte it had been offered when RESET came (R270, U6; log 6). -/
opaque drawKept : Nat → Bool

/-! The working registers after a SinkFailure (R244, U2; log 7). -/
opaque drawCursor : Nat → Word
opaque drawEnt : Nat → Code
opaque drawEntValid : Nat → Bool
opaque drawNBits : Nat → BitVec 4
opaque drawMaxCode : Nat → BitVec 12
opaque drawFreeEnt : Nat → BitVec 13
opaque drawClearFlag : Nat → Bool
opaque drawAcc : Nat → BitVec 19
opaque drawBits : Nat → BitVec 5
opaque drawACount : Nat → BitVec 8

/-! The private memories after a reset (R55, U1; log 8) and after a SinkFailure (R244, U2; log 7). -/
opaque drawHt : Nat → Vector (Option Key) hSize
opaque drawCt : Nat → Vector Code hSize
opaque drawBb : Nat → Vector Byte blockMax

end Config

end Sys2Proof
end

