-- ==== Sys2Proof/Syntax.lean ====
section
/-! DEFINITION. The operations of the engine: one constructor per row of spec/opcode_table.json. -/

namespace Sys2Proof

/-- The operations (30_encoding.md rules R100, R102; 46_host_interface.md rule R230; 70_reset_and_hazards.md rule R270). -/
inductive Instr where
  -- Rows of the dispatch vector DV (R100).
  /-- R152: reject a START whose configuration fails VALIDATE. -/
  | startInvalid
  /-- R153: begin a run. -/
  | startOk
  /-- R154: extend the current sequence by one pixel. -/
  | pixelHit
  /-- R155: emit the current code and allocate a code. -/
  | pixelMissInsert
  /-- R156: emit the current code with no code left. -/
  | pixelMissFull
  /-- R158: emit the last code and EOFC, end the output. -/
  | finish
  /-- R157: reset the dictionary and emit CLEAR. -/
  | clearBlock
  -- Transactions HB of the host port (R98).
  /-- R231: read the register at a word index. -/
  | csrRead (idx : BitVec 4)
  /-- R232: write the register at a word index, or START. -/
  | csrWrite (idx : BitVec 4) (wdata : Word)
  -- The reset signal.
  /-- R270. -/
  | reset
  -- Primitives, named by a UOP (R102), each run by itself.
  /-- R120, UOP 0x1. -/
  | nextPixel
  /-- R130, UOP 0x2. -/
  | dictClear
  /-- R132, UOP 0x3. -/
  | dictHash (ent : Code) (c : Byte)
  /-- R133, UOP 0x4. -/
  | dictLookup (ent : Code) (c : Byte)
  /-- R136, UOP 0x5. -/
  | dictInsert (slot : Slot) (fcode : Key) (code : Code)
  /-- R190, UOP 0x6. -/
  | emit (code : Code)
  /-- R210, UOP 0x7. -/
  | byteOut (b : Byte)
  /-- R211, UOP 0x8. -/
  | blockFlush
  /-- R212, UOP 0x9. -/
  | headerOut (init : BitVec 4)
  /-- R213, UOP 0xA. -/
  | terminatorOut
  /-- R216, UOP 0xB. -/
  | sinkWrite (b : Byte)
  /-- R151, UOP 0xC. -/
  | validate
  deriving DecidableEq, Repr

/-- The four formats of the opcode table: the dispatch vector DV8 (R99), the host transaction HB37 (R98), the reset signal, and
the call word of a primitive (UOP4 of R102 with its operands; the layout of the operands is the model's, log 2). -/
inductive Format where
  | dispatch
  | host
  | signal
  | primitive
  deriving DecidableEq, Repr

/-- Why a word is no operation. -/
inductive Reject where
  /-- A DV in IDLE, DONE or ERROR with START_REQ = 0: the engine has no step (R100, R159). -/
  | noStep
  /-- A DV that cannot occur (R101). -/
  | unreachableDispatch
  /-- The reset signal is not asserted. -/
  | signalLow
  /-- UOP 0x0 and 0xD..0xF name nothing (R103, U9). -/
  | noSuchPrimitive
  /-- A primitive call word with a bit set outside its fields, or an operand the primitive does not take. -/
  | illFormedCall
  /-- The word is wider than its format. -/
  | tooWide
  deriving DecidableEq, Repr

end Sys2Proof
end

