-- ==== Sys2Proof/Machine/State.lean ====
section
/-! DEFINITION. The state of the engine and of what it reaches (10_state.md, 20_memory.md), the reasons a step can stop, and the
state after reset (10_state.md rule R55, 70_reset_and_hazards.md rule R270). -/

namespace Sys2Proof.Machine

/-- The bytes of PIX as (address, byte) pairs (20_memory.md rule R62): addresses strictly rising, no entry equal to
`Config.pixUnwritten`. -/
abbrev Memory := List Host.Cell

/-- The engine's errors (60_exceptions.md rule R240). -/
inductive EngineError where
  /-- R241, R242: the failed checks of VALIDATE. -/
  | invalidInput (reasons : BitVec 4)
  /-- R243, R244: the sink answered FAIL. -/
  | sinkFailure
  deriving DecidableEq, Repr

/-- Why the engine never finishes the step it is in. -/
inductive Stuck where
  /-- The sink never answers the byte it was offered (45_block_writer.md rule R216, U5; log 5). -/
  | sink (offered : Byte)
  /-- A probe of a table without an EMPTY slot never ends (42_dictionary.md rule R133; rule R134 excludes such a table; log 12). -/
  | probe
  deriving DecidableEq, Repr

/-- What the last primitive that was called by itself returned (10_state.md rule R37: no state of the engine; log 17). -/
inductive PrimitiveResult where
  | none
  /-- NEXT_PIXEL (R120). -/
  | pixel (eos : Bool) (c : Byte)
  /-- DICT_HASH (R132). -/
  | hash (fcode : Key) (i : Slot)
  /-- DICT_LOOKUP (R133). -/
  | lookup (hit : Bool) (code : Code) (slot : Slot) (fcode : Key)
  /-- VALIDATE (R151). -/
  | reasons (r : BitVec 4)
  deriving DecidableEq, Repr

/-- One move of the environment's schedule (20_memory.md rule R73, 46_host_interface.md rule R230; log 3). -/
inductive Input where
  /-- A host transaction HB (R98). -/
  | host (hb : BitVec 37)
  /-- The reset signal is asserted (R270). -/
  | reset
  /-- The host writes a byte of its pixel memory (R62). -/
  | pixWrite (addr : Word) (b : Byte)
  /-- The engine takes its step before the next host move (R73). -/
  | engine
  /-- A primitive is called by itself (R102; the model's own, log 2). -/
  | primitive (call : BitVec 56)
  deriving DecidableEq, Repr

structure State where
  -- Sequencing: R21, R22.
  state : BitVec 3
  startReq : Bool
  -- Host configuration registers: R45 to R48.
  width : BitVec 16
  height : BitVec 16
  depth : BitVec 8
  buflen : Word
  -- Latched run configuration: R23.
  lWidth : BitVec 16
  lHeight : BitVec 16
  lDepth : BitVec 8
  lBuflen : Word
  -- Run constants: R24, R25.
  init : BitVec 4
  clear : BitVec 9
  eofc : BitVec 9
  n : Word
  -- Working registers: R26 to R33.
  cursor : Word
  ent : Code
  entValid : Bool
  nBits : BitVec 4
  maxCode : BitVec 12
  freeEnt : BitVec 13
  clearFlag : Bool
  acc : BitVec 19
  bits : BitVec 5
  aCount : BitVec 8
  -- Output count and errors: R34, R35.
  outCount : Word
  errCode : BitVec 4
  reason : BitVec 4
  -- Private memories: R38, R39, R40. A slot of HT is EMPTY (none) or a key.
  ht : Vector (Option Key) Config.hSize
  ct : Vector Code Config.hSize
  bb : Vector Byte Config.blockMax
  -- The host's pixel memory (R62) and the bytes the sink has accepted, oldest first (R65, R74).
  pix : Memory
  sinkOut : List Byte
  -- The model's own: the environment's moves (log 3, log 4, log 10) ...
  pixDirty : List Nat
  sinkAnswers : List SinkAnswer
  inputs : List Input
  -- ... what a host read or a primitive returned (R98, log 17), ...
  rdata : Word
  result : PrimitiveResult
  -- ... a step that does not end (R216, log 5, log 12), and how many free values have been drawn.
  stuck : Option Stuck
  draws : Nat
  deriving DecidableEq, Repr

/-- Why the machine stops. No error of the engine is here: those are next states (60_exceptions.md). -/
inductive Fault where
  /-- Raised by the fetch of an engine step (R101, U7): STATE in 5..7, or START_REQ = 1 in RUNNING or CLEARING. Safe: R101 asks
  for this fault and no rule reaches it. -/
  | unreachableDispatch
  /-- Raised by the fetch of an engine step (R103, U8): ERRCODE holds 3..15. Safe: U8 asks for a fault and no rule writes it. -/
  | reservedErrCode
  /-- Raised by DICT_INSERT at a slot above 5002 (R63). Safe: the slot does not exist and no lookup returns it (R133). -/
  | noSuchSlot
  /-- Raised by an operation that finds A_COUNT where R33 and R210 say it never is (above 253; above 254 for BLOCK_FLUSH), so that
  BB has no such entry. Safe: the machine stops where no rule leads (log 13). -/
  | noSuchBlockEntry
  deriving DecidableEq, Repr

/-- Why the model has no meaning for what it was given. -/
inductive Refusal where
  /-- Raised by an arm of `exec` without a meaning: none is left. Safe. -/
  | notModelled (mnemonic : String)
  /-- Raised by the fetch of a primitive's call word that names no primitive or has bits outside its fields (R103, U9). Safe:
  such a word is the model's own form and no part of the hardware (log 2). -/
  | noSuchCall (why : Reject)
  deriving DecidableEq, Repr

/-- What a step fetches: an operation and the state it runs in, a move that is no operation of the table, or a stop. -/
inductive Fetch where
  | run (i : Instr) (s : State)
  | move (s : State)
  | fault (f : Fault)
  | refuse (r : Refusal)
  deriving DecidableEq, Repr

/-- How a sequence of the engine's actions ends: it goes on, it raised SinkFailure (R244), or it never ends (R216). -/
inductive Flow where
  | ok (s : State)
  | raised (s : State)
  | stuck (why : Stuck) (s : State)
  deriving DecidableEq, Repr

/-- How a lookup ends (R133): a hit with its code, a miss, each with the slot; or the probe never ends (log 12). -/
inductive Probe where
  | hit (code : Code) (slot : Slot)
  | miss (slot : Slot)
  | endless
  deriving DecidableEq, Repr

/-- The state after RESET with nothing placed yet: every register 0 and STATE IDLE (R55); HT, CT and BB any value (U1, log 8); PIX
and the sink hold nothing (log 9, log 19). -/
def State.reset : State where
  state := 0#3
  startReq := false
  width := 0#16
  height := 0#16
  depth := 0#8
  buflen := 0#32
  lWidth := 0#16
  lHeight := 0#16
  lDepth := 0#8
  lBuflen := 0#32
  init := 0#4
  clear := 0#9
  eofc := 0#9
  n := 0#32
  cursor := 0#32
  ent := 0#12
  entValid := false
  nBits := 0#4
  maxCode := 0#12
  freeEnt := 0#13
  clearFlag := false
  acc := 0#19
  bits := 0#5
  aCount := 0#8
  outCount := 0#32
  errCode := 0#4
  reason := 0#4
  ht := Config.drawHt 0
  ct := Config.drawCt 0
  bb := Config.drawBb 0
  pix := []
  sinkOut := []
  pixDirty := []
  sinkAnswers := []
  inputs := []
  rdata := 0#32
  result := .none
  stuck := none
  draws := 1

end Sys2Proof.Machine
end

