-- ==== Sys2Proof/Machine/Ops.lean ====
section
/-! DEFINITION. The operations every meaning is built from: PIX and the private memories, the byte sink, how a sequence of actions
ends, raising an engine error, and reset. -/

namespace Sys2Proof.Machine

/-! ### The codes of STATE (10_state.md rule R21) and ERRCODE (R35) -/

abbrev stIdle : BitVec 3 := 0#3
abbrev stRunning : BitVec 3 := 1#3
abbrev stClearing : BitVec 3 := 2#3
abbrev stDone : BitVec 3 := 3#3
abbrev stError : BitVec 3 := 4#3

abbrev errNone : BitVec 4 := 0#4
abbrev errInvalidInput : BitVec 4 := 1#4
abbrev errSinkFailure : BitVec 4 := 2#4

/-! ### The model's own fields -/

/-- The number of free values drawn. -/
def State.withDraws (s : State) (d : Nat) : State := { s with draws := d }

/-- The coming moves of the schedule (log 3). -/
def State.withInputs (s : State) (moves : List Input) : State := { s with inputs := moves }

/-! ### PIX, the host's pixel memory (20_memory.md rule R62) -/

/-- PixRead(a) of R13: one byte, no side effect. -/
def Memory.read : Memory → Nat → Byte
  | [], _ => Config.pixUnwritten
  | (k, v) :: rest, a => if k = a then v else Memory.read rest a

/-- The host writes one byte; the canonical form is kept. -/
def Memory.write : Memory → Nat → Byte → Memory
  | [], a, b => if b = Config.pixUnwritten then [] else [(a, b)]
  | (k, v) :: rest, a, b =>
    if a < k then (if b = Config.pixUnwritten then (k, v) :: rest else (a, b) :: (k, v) :: rest)
    else if a = k then (if b = Config.pixUnwritten then rest else (a, b) :: rest)
    else (k, v) :: Memory.write rest a b

/-- The canonical form: addresses strictly rising and below 2^32 (R60), no entry equal to what an unlisted address reads as. -/
def Memory.wf : Memory → Bool
  | [] => true
  | (k, v) :: rest =>
    decide (k < 2 ^ 32) && v != Config.pixUnwritten && rest.all (fun c => decide (k < c.1)) && Memory.wf rest

/-- A read of PIX: a byte the host wrote during the run is any byte, drawn at each read (20_memory.md rule R75; log 10). -/
def State.pixRead (s : State) (a : Nat) : Byte × State :=
  if a ∈ s.pixDirty then (Config.drawPixel s.draws, s.withDraws (s.draws + 1))
  else (s.pix.read a, s)

/-! ### The private memories (20_memory.md rules R63, R64) -/

/-- HT[i] (R13): EMPTY or a key. -/
def State.key (s : State) (i : Nat) : Option Key := if h : i < Config.hSize then s.ht[i] else none

/-- CT[i] (R13). -/
def State.codeAt (s : State) (i : Nat) : Code := if h : i < Config.hSize then s.ct[i] else 0#12

/-- BB[j] (R13). -/
def State.blockByte (s : State) (j : Nat) : Byte := if h : j < Config.blockMax then s.bb[j] else 0#8

/-- An entry of a private memory is written; an index the memory does not have writes nothing. -/
def putAt {α : Type} {n : Nat} (v : Vector α n) (i : Nat) (x : α) : Vector α n := if h : i < n then v.set i x h else v

/-- Every slot of HT becomes EMPTY; CT is not written (42_dictionary.md rule R130). -/
def State.dictClear (s : State) : State := { s with ht := Vector.replicate Config.hSize none }

/-- CT[slot] and HT[slot] are written together (42_dictionary.md rule R136). -/
def State.dictInsert (s : State) (slot : Nat) (fcode : Key) (code : Code) : State :=
  { s with ct := putAt s.ct slot code, ht := putAt s.ht slot (some fcode) }

/-- The pending bytes of the block, in arrival order (45_block_writer.md rule R211). -/
def State.pendingBytes (s : State) : List Byte := (List.range s.aCount.toNat).map s.blockByte

/-! ### How a sequence of actions ends -/

/-- Go on after the actions so far, unless they raised an error or never end (60_exceptions.md rule R244: "No later part of the
operation happens"). -/
def Flow.andThen (r : Flow) (f : State → Flow) : Flow :=
  match r with
  | .ok s => f s
  | .raised s => .raised s
  | .stuck why s => .stuck why s

/-- Raise an error of the engine (60_exceptions.md rules R242 and R244), the one shared entry. After a SinkFailure the working
registers, HT, CT and BB are free values (U2; log 7). There is no handler and no return operation (R249): START or RESET leaves
ERROR. -/
def State.raise (s : State) : EngineError → State
  | .invalidInput reasons => { s with reason := reasons, errCode := errInvalidInput, state := stError }
  | .sinkFailure =>
    { s with
      errCode := errSinkFailure
      reason := 0#4
      state := stError
      startReq := false
      cursor := Config.drawCursor s.draws
      ent := Config.drawEnt s.draws
      entValid := Config.drawEntValid s.draws
      nBits := Config.drawNBits s.draws
      maxCode := Config.drawMaxCode s.draws
      freeEnt := Config.drawFreeEnt s.draws
      clearFlag := Config.drawClearFlag s.draws
      acc := Config.drawAcc s.draws
      bits := Config.drawBits s.draws
      aCount := Config.drawACount s.draws
      ht := Config.drawHt s.draws
      ct := Config.drawCt s.draws
      bb := Config.drawBb s.draws
      draws := s.draws + 1 }

/-- A step that never ends (45_block_writer.md rule R216): no state inside it is seen (00_scope.md rule R7), so the engine's
registers stand as they did before the step, while the bytes the sink accepted and the values drawn stay (log 5). -/
def State.enterStuck (before inside : State) (why : Stuck) : State :=
  { before with
    sinkOut := inside.sinkOut
    sinkAnswers := inside.sinkAnswers
    draws := inside.draws
    stuck := some why }

/-- The state after an operation that began in `before` and whose actions ended as `r`. -/
def Flow.settle (r : Flow) (before : State) : State :=
  match r with
  | .ok s => s
  | .raised s => s.raise .sinkFailure
  | .stuck why s => before.enterStuck s why

/-! ### The byte sink (45_block_writer.md rule R216) -/

/-- The sink's answer to the next byte: the environment's next one, or a free value past their end (U4; log 4). -/
def State.takeAnswer (s : State) : SinkAnswer × State :=
  match s.sinkAnswers with
  | a :: rest => (a, { s with sinkAnswers := rest })
  | [] => (Config.sinkAnswer s.draws, s.withDraws (s.draws + 1))

/-- SINK_WRITE (R216): an accepted byte is output and counted; a failed one raises; without an answer the step never ends. -/
def State.sinkWrite (s : State) (b : Byte) : Flow :=
  match s.takeAnswer with
  | (.accept, t) => .ok { t with sinkOut := t.sinkOut ++ [b], outCount := t.outCount + 1#32 }
  | (.fail, t) => .raised t
  | (.silent, t) => .stuck (.sink b) t

/-- Several bytes in order (20_memory.md rule R74). -/
def State.sinkWriteAll (s : State) : List Byte → Flow
  | [] => .ok s
  | b :: rest => (s.sinkWrite b).andThen fun t => t.sinkWriteAll rest

/-! ### Reset (70_reset_and_hazards.md rule R270) -/

/-- RESET: every register 0, HT, CT and BB any value (U1; log 8). PIX and the sink's bytes stay, and so do the environment's coming
moves. A step that waits for the sink is abandoned; whether the sink kept the byte it was offered is its own affair (U6; log 6). -/
def State.applyReset (s : State) : State :=
  { State.reset with
    ht := Config.drawHt s.draws
    ct := Config.drawCt s.draws
    bb := Config.drawBb s.draws
    pix := s.pix
    sinkOut :=
      match s.stuck with
      | some (.sink b) => if Config.drawKept s.draws then s.sinkOut ++ [b] else s.sinkOut
      | some .probe => s.sinkOut
      | none => s.sinkOut
    sinkAnswers := s.sinkAnswers
    inputs := s.inputs
    rdata := s.rdata
    result := s.result
    draws := s.draws + 1 }

end Sys2Proof.Machine
end

