-- ==== Sys2Proof/Machine/Operands.lean ====
section
/-! DEFINITION. What the operations work on: the next pixel, the keys and slots of the dictionary, the constants of a run. -/

namespace Sys2Proof.Machine

/-! ### The constants of a run (00_scope.md rule R10) -/

/-- INIT = max(2, depth). -/
def runInit (depth : BitVec 8) : BitVec 4 := BitVec.ofNat 4 (max 2 depth.toNat)

/-- CLEAR = 1 << INIT. -/
def runClear (init : BitVec 4) : BitVec 9 := BitVec.ofNat 9 (2 ^ init.toNat)

/-- EOFC = CLEAR + 1. -/
def runEofc (clear : BitVec 9) : BitVec 9 := BitVec.ofNat 9 (clear.toNat + 1)

/-- FIRST_FREE = CLEAR + 2. -/
def firstFree (clear : BitVec 9) : BitVec 13 := BitVec.ofNat 13 (clear.toNat + 2)

/-- INIT_WIDTH = INIT + 1. -/
def initWidth (init : BitVec 4) : BitVec 4 := BitVec.ofNat 4 (init.toNat + 1)

/-- MAX_CODE = (1 << N_BITS) - 1 (44_bit_packer.md rule R197). -/
def maxCodeOf (nBits : BitVec 4) : BitVec 12 := BitVec.ofNat 12 (2 ^ nBits.toNat - 1)

/-- The number of pixels, L_WIDTH * L_HEIGHT (10_state.md rule R25). -/
def pixelCount (w h : BitVec 16) : Word := BitVec.ofNat 32 (w.toNat * h.toNat)

/-! ### The next pixel (41_pixel_source.md rule R120) -/

/-- CURSOR <- CURSOR + 1. -/
def State.advance (s : State) : State := { s with cursor := s.cursor + 1#32 }

/-- next_pixel(): (eos, c) and the state after it. -/
def State.nextPixel (s : State) : Bool × Byte × State :=
  if s.cursor = s.n then (true, 0#8, s)
  else
    let r := s.pixRead s.cursor.toNat
    (false, r.1, r.2.advance)

/-! ### Keys, slots and probes (42_dictionary.md) -/

/-- FCODE = (c << 12) + ent (R96, R132). -/
def fcodeOf (ent : Code) (c : Byte) : Key := BitVec.ofNat 20 ((c.toNat <<< Config.keyShift) + ent.toNat)

/-- The primary slot (c << 4) XOR ent (R97, R132). -/
def primarySlot (ent : Code) (c : Byte) : Slot := BitVec.ofNat 13 ((c.toNat <<< Config.hShift) ^^^ ent.toNat)

/-- The secondary displacement of a probe (R133). -/
def displacement (i : Nat) : Nat := if i = 0 then 1 else Config.hSize - i

/-- The slot after slot i in a probe (R133), in the unsigned form. -/
def probeNext (disp i : Nat) : Nat := if disp ≤ i then i - disp else i + Config.hSize - disp

/-- The probe of R133 from slot i on: at most `fuel` more slots. HSIZE of them are all the slots there are (R134). -/
def State.probe (s : State) (fcode : Key) (disp : Nat) : (fuel : Nat) → (i : Nat) → Probe
  | 0, _ => .endless
  | fuel + 1, i =>
    let j := probeNext disp i
    if s.key j = some fcode then .hit (s.codeAt j) (BitVec.ofNat 13 j)
    else if s.key j = none then .miss (BitVec.ofNat 13 j)
    else s.probe fcode disp fuel j

/-- dict_lookup(ent, c) (R133). It writes no state (R138). -/
def State.dictLookup (s : State) (ent : Code) (c : Byte) : Probe :=
  let fcode := fcodeOf ent c
  let i := (primarySlot ent c).toNat
  if s.key i = some fcode then .hit (s.codeAt i) (primarySlot ent c)
  else if s.key i = none then .miss (primarySlot ent c)
  else s.probe fcode (displacement i) Config.hSize i

end Sys2Proof.Machine
end

