-- ==== Sys2Proof/Machine/Flags.lean ====
section
/-! DEFINITION. The flags (10_state.md rule R41), the checks of VALIDATE, the dispatch vector, and the width update. -/

namespace Sys2Proof.Machine

/-- BUSY = START_REQ OR STATE in RUNNING, CLEARING (R41, R44). -/
def State.busy (s : State) : Bool := s.startReq || s.state == stRunning || s.state == stClearing

/-- EOS: CURSOR = N (30_encoding.md rule R99, 41_pixel_source.md rule R122). -/
def State.eos (s : State) : Bool := s.cursor == s.n

/-- FULL: FREE_ENT = 4096 (R99). -/
def State.full (s : State) : Bool := s.freeEnt.toNat == Config.maxCodes

/-- validate(): the reasons, bit 0 BAD_WIDTH, 1 BAD_HEIGHT, 2 BAD_DEPTH, 3 SHORT_BUFFER (43_driver.md rule R151,
60_exceptions.md rule R241). -/
def State.validate (s : State) : BitVec 4 :=
  BitVec.ofBool (decide (s.lBuflen.toNat < s.lWidth.toNat * s.lHeight.toNat)) ++
    BitVec.ofBool (decide (s.lDepth.toNat = 0 ∨ Config.depthMax < s.lDepth.toNat)) ++
    BitVec.ofBool (decide (s.lHeight.toNat = 0)) ++
    BitVec.ofBool (decide (s.lWidth.toNat = 0))

/-- CFG_OK = (validate() = 0) (R151). -/
def State.cfgOk (s : State) : Bool := s.validate == 0#4

/-- HIT (R99): in RUNNING with a pixel left, the hit result of the lookup of (ENT, PIX[CURSOR]), otherwise 0. Nothing where the
probe never ends (log 12). The byte is the one the step's NEXT_PIXEL then reads (70_reset_and_hazards.md rule R280). -/
def State.hit (s : State) : Option Bool :=
  if s.state = stRunning ∧ s.cursor.toNat < s.n.toNat then
    match s.dictLookup s.ent (s.pixRead s.cursor.toNat).1 with
    | .hit _ _ => some true
    | .miss _ => some false
    | .endless => none
  else some false

/-- The dispatch vector from its fields, STATE in bits 2..0 up to CFG_OK in bit 7 (R99). -/
def packDispatch (cfgOk full hit eos sr : Bool) (state : BitVec 3) : BitVec 8 :=
  BitVec.ofBool cfgOk ++ BitVec.ofBool full ++ BitVec.ofBool hit ++ BitVec.ofBool eos ++ BitVec.ofBool sr ++ state

/-- DV, a function of the state and of PIX (R99). -/
def State.dispatchVector (s : State) : Option (BitVec 8) :=
  s.hit.map fun h => packDispatch s.cfgOk s.full h s.eos s.startReq s.state

/-- The width update after an emission (44_bit_packer.md rules R190 step 3, R194, R197). -/
def State.updateWidth (s : State) : State :=
  if s.clearFlag then
    { s with nBits := initWidth s.init, maxCode := maxCodeOf (initWidth s.init), clearFlag := false }
  else if s.maxCode.toNat < s.freeEnt.toNat ∧ s.nBits.toNat < Config.maxBits then
    { s with nBits := s.nBits + 1#4, maxCode := maxCodeOf (s.nBits + 1#4) }
  else s

/-- The length of the run that is going on or pending: PIX addresses below it are the engine's (20_memory.md rule R75,
70_reset_and_hazards.md rule R276; log 10). -/
def State.runLength (s : State) : Nat :=
  if s.startReq then s.lWidth.toNat * s.lHeight.toNat else s.n.toNat

end Sys2Proof.Machine
end

