-- ==== Sys2Proof/Machine/Dictionary.lean ====
section
/-! DEFINITION. The Code Dictionary (42_dictionary.md). -/

namespace Sys2Proof.Machine

/-- DICT_CLEAR (R130), called by itself. -/
def execDictClear (s : State) : Host.Outcome State Fault Refusal := .next s.dictClear

/-- DICT_HASH (R132), called by itself: no state is written (R138). -/
def execDictHash (ent : Code) (c : Byte) (s : State) : Host.Outcome State Fault Refusal :=
  .next { s with result := .hash (fcodeOf ent c) (primarySlot ent c) }

/-- DICT_LOOKUP (R133), called by itself: no state is written (R138). -/
def execDictLookup (ent : Code) (c : Byte) (s : State) : Host.Outcome State Fault Refusal :=
  .next (match s.dictLookup ent c with
    | .hit code slot => { s with result := .lookup true code slot (fcodeOf ent c) }
    | .miss slot => { s with result := .lookup false 0#12 slot (fcodeOf ent c) }
    | .endless => s.enterStuck s .probe)

/-- DICT_INSERT (R136), called by itself. -/
def execDictInsert (slot : Slot) (fcode : Key) (code : Code) (s : State) : Host.Outcome State Fault Refusal :=
  if slot.toNat < Config.hSize then .next (s.dictInsert slot.toNat fcode code) else .fault .noSuchSlot

end Sys2Proof.Machine
end

