-- ==== Sys2Proof/Machine/BlockWriter.lean ====
section
/-! DEFINITION. The Block Writer and the byte sink (45_block_writer.md). -/

namespace Sys2Proof.Machine

/-- block_flush() (R211): the length byte and the data bytes, if there are any. -/
def State.blockFlush (s : State) : Flow :=
  if 0 < s.aCount.toNat then
    (s.sinkWriteAll (s.aCount :: s.pendingBytes)).andThen fun t => .ok { t with aCount := 0#8 }
  else .ok s

/-- BB[A_COUNT] <- b and A_COUNT <- A_COUNT + 1 (R210). -/
def State.pushByte (s : State) (b : Byte) : State :=
  { s with bb := putAt s.bb s.aCount.toNat b, aCount := s.aCount + 1#8 }

/-- byte_out(b) (R210): the byte joins the block; a full block is written at once. -/
def State.byteOut (s : State) (b : Byte) : Flow :=
  if (s.pushByte b).aCount.toNat = Config.blockMax then (s.pushByte b).blockFlush else .ok (s.pushByte b)

/-- An operation that may call byte_out: it finds A_COUNT at most 253 (R33, R210; log 13). -/
def State.withRoom (s : State) (r : Flow) : Host.Outcome State Fault Refusal :=
  if s.aCount.toNat < Config.blockMax then .next (r.settle s) else .fault .noSuchBlockEntry

/-- BYTE_OUT (R210), called by itself. -/
def execByteOut (b : Byte) (s : State) : Host.Outcome State Fault Refusal := s.withRoom (s.byteOut b)

/-- BLOCK_FLUSH (R211), called by itself: the block holds at most 254 bytes (R33). -/
def execBlockFlush (s : State) : Host.Outcome State Fault Refusal :=
  if s.aCount.toNat ≤ Config.blockMax then .next (s.blockFlush.settle s) else .fault .noSuchBlockEntry

/-- header_out(init) (R212): the byte goes to the sink directly. -/
def State.headerOut (s : State) (init : BitVec 4) : Flow := s.sinkWrite (init.setWidth 8)

/-- HEADER_OUT (R212), called by itself. -/
def execHeaderOut (init : BitVec 4) (s : State) : Host.Outcome State Fault Refusal :=
  .next ((s.headerOut init).settle s)

/-- terminator_out() (R213): the zero-length block. -/
def State.terminatorOut (s : State) : Flow := s.sinkWrite 0x00#8

/-- TERMINATOR_OUT (R213), called by itself. -/
def execTerminatorOut (s : State) : Host.Outcome State Fault Refusal := .next (s.terminatorOut.settle s)

/-- SINK_WRITE (R216), called by itself. -/
def execSinkWrite (b : Byte) (s : State) : Host.Outcome State Fault Refusal := .next ((s.sinkWrite b).settle s)

end Sys2Proof.Machine
end

