-- ==== Sys2Proof/Machine/BitPacker.lean ====
section
/-! DEFINITION. The Bit Packer (44_bit_packer.md). -/

namespace Sys2Proof.Machine

/-- Step 1 of EMIT (R190, R191, R198): the code's N_BITS low bits go directly above the bits held. -/
def State.appendCode (s : State) (code : Code) : State :=
  { s with
    acc := BitVec.ofNat 19 (s.acc.toNat + (code.toNat % 2 ^ s.nBits.toNat) <<< s.bits.toNat)
    bits := BitVec.ofNat 5 (s.bits.toNat + s.nBits.toNat) }

/-- The low byte has left the accumulator (R190, R192). -/
def State.dropByte (s : State) : State := { s with acc := s.acc >>> 8, bits := s.bits - 8#5 }

/-- No bit is pending (R195). -/
def State.clearAcc (s : State) : State := { s with acc := 0#19, bits := 0#5 }

/-- Step 2 of EMIT (R190, R192): k complete bytes leave from the low end. -/
def State.drain (s : State) : Nat → Flow
  | 0 => .ok s
  | k + 1 => (s.byteOut (s.acc.setWidth 8)).andThen fun t =>
      t.dropByte.drain k

/-- Step 4 of EMIT (R190, R195): the partial byte, zero-padded, and the pending block. -/
def State.eofFlush (s : State) : Flow :=
  (if 0 < s.bits.toNat then s.byteOut (s.acc.setWidth 8) else .ok s).andThen fun t =>
    t.clearAcc.blockFlush

/-- emit(code) (R190): append, drain while 8 or more bits are held, update the width, and finish at EOFC. -/
def State.emit (s : State) (code : Code) : Flow :=
  let t := s.appendCode code
  (t.drain (t.bits.toNat / 8)).andThen fun u =>
    let v := u.updateWidth
    if code.toNat = v.eofc.toNat then v.eofFlush else .ok v

/-- EMIT (R190), called by itself. -/
def execEmit (code : Code) (s : State) : Host.Outcome State Fault Refusal := s.withRoom (s.emit code)

end Sys2Proof.Machine
end

