-- ==== Sys2Proof/Machine/Driver.lean ====
section
/-! DEFINITION. The Encoder Driver (43_driver.md): one definition per operation, each the rule's pseudocode. -/

namespace Sys2Proof.Machine

/-- VALIDATE (R151), called by itself: it writes no state and raises nothing. -/
def execValidate (s : State) : Host.Outcome State Fault Refusal := .next { s with result := .reasons s.validate }

/-- START_INVALID (R152): raises InvalidInput (60_exceptions.md rule R242). -/
def execStartInvalid (s : State) : Host.Outcome State Fault Refusal :=
  .next (State.raise { s with startReq := false, outCount := 0#32 } (.invalidInput s.validate))

/-- start_ok() before its first sink write (R153). -/
def State.startRun (s : State) : State :=
  let init := runInit s.lDepth
  { s with
    startReq := false
    errCode := errNone
    reason := 0#4
    outCount := 0#32
    n := pixelCount s.lWidth s.lHeight
    init := init
    clear := runClear init
    eofc := runEofc (runClear init) }

/-- start_ok() after the header byte, up to its next_pixel() (R153). -/
def State.freshRun (s : State) : State :=
  State.dictClear
    { s with
      nBits := initWidth s.init
      maxCode := maxCodeOf (initWidth s.init)
      freeEnt := firstFree s.clear
      clearFlag := false
      acc := 0#19
      bits := 0#5
      aCount := 0#8
      cursor := 0#32 }

/-- The first pixel becomes ENT; an empty stream leaves ENT_VALID 0 (R153, R160). -/
def State.firstPixel (s : State) : State :=
  match s.nextPixel with
  | (false, c, t) => { t with ent := c.setWidth 12, entValid := true }
  | (true, _, t) => { t with ent := 0#12, entValid := false }

/-- start_ok() (R153). -/
def State.startOk (s : State) : Flow :=
  (s.startRun.headerOut s.startRun.init).andThen fun t =>
    let u := t.freshRun.firstPixel
    (u.emit (u.clear.setWidth 12)).andThen fun v => .ok { v with state := stRunning }

/-- START_OK (R153). -/
def execStartOk (s : State) : Host.Outcome State Fault Refusal := .next (s.startOk.settle s)

/-- The pixel steps' beginning: next_pixel() and dict_lookup(ENT, c), then `k` with the lookup's code (0 on a miss), slot and fcode
and the pixel (R154, R155, R156). A probe that never ends leaves the step unfinished (log 12). -/
def State.withLookup (s : State) (k : Code → Slot → Key → Byte → State → Flow) : Flow :=
  match s.nextPixel with
  | (_, c, t) =>
    match t.dictLookup t.ent c with
    | .hit code slot => k code slot (fcodeOf t.ent c) c t
    | .miss slot => k 0#12 slot (fcodeOf t.ent c) c t
    | .endless => .stuck .probe t

/-- pixel_hit() (R154). -/
def State.pixelHit (s : State) : Flow :=
  s.withLookup fun code _ _ _ t => .ok { t with ent := code }

/-- PIXEL_HIT (R154). -/
def execPixelHit (s : State) : Host.Outcome State Fault Refusal := .next (s.pixelHit.settle s)

/-- pixel_miss_insert() (R155): the emission comes before the insertion and before FREE_ENT is incremented (R162), and the key is
that of the old ENT and c (90_conflicts.md C1). -/
def State.pixelMissInsert (s : State) : Flow :=
  s.withLookup fun _ slot fcode c t =>
    (t.emit t.ent).andThen fun u =>
      let v := State.dictInsert { u with ent := c.setWidth 12 } slot.toNat fcode (u.freeEnt.setWidth 12)
      .ok { v with freeEnt := v.freeEnt + 1#13 }

/-- PIXEL_MISS_INSERT (R155). -/
def execPixelMissInsert (s : State) : Host.Outcome State Fault Refusal := s.withRoom s.pixelMissInsert

/-- pixel_miss_full() (R156). -/
def State.pixelMissFull (s : State) : Flow :=
  s.withLookup fun _ _ _ c t =>
    (t.emit t.ent).andThen fun u => .ok { u with ent := c.setWidth 12, state := stClearing }

/-- PIXEL_MISS_FULL (R156). -/
def execPixelMissFull (s : State) : Host.Outcome State Fault Refusal := s.withRoom s.pixelMissFull

/-- clear_block() (R157): the dictionary, FREE_ENT and CLEAR_FLAG come before the emission (90_conflicts.md C2). -/
def State.clearBlock (s : State) : Flow :=
  let t := { s.dictClear with freeEnt := firstFree s.clear, clearFlag := true }
  (t.emit (t.clear.setWidth 12)).andThen fun u => .ok { u with state := stRunning }

/-- CLEAR_BLOCK (R157). -/
def execClearBlock (s : State) : Host.Outcome State Fault Refusal := s.withRoom s.clearBlock

/-- finish() (R158). -/
def State.finish (s : State) : Flow :=
  (if s.entValid then s.emit s.ent else .ok s).andThen fun t =>
    (t.emit (t.eofc.setWidth 12)).andThen fun u =>
      u.terminatorOut.andThen fun v => .ok { v with state := stDone }

/-- FINISH (R158). -/
def execFinish (s : State) : Host.Outcome State Fault Refusal := s.withRoom s.finish

end Sys2Proof.Machine
end

