-- ==== Sys2Proof/Machine/HostInterface.lean ====
section
/-! DEFINITION. The host interface (46_host_interface.md) and the reset signal (70_reset_and_hazards.md). -/

namespace Sys2Proof.Machine

/-- What a CSR word index reads as (R231; 10_state.md rules R42 to R54). -/
def State.csrValue (s : State) (idx : BitVec 4) : Word :=
  match idx.toNat with
  | 1 => 0#19 ++ BitVec.ofBool s.startReq ++ s.reason ++ s.errCode ++ BitVec.ofBool s.busy ++ s.state
  | 2 => s.width.setWidth 32
  | 3 => s.height.setWidth 32
  | 4 => s.depth.setWidth 32
  | 5 => s.buflen
  | 6 => 0#10 ++ s.init ++ BitVec.ofBool s.clearFlag ++ s.freeEnt ++ s.nBits
  | 7 => 0#19 ++ BitVec.ofBool s.entValid ++ s.ent
  | 8 => 0#12 ++ s.aCount ++ s.bits.setWidth 4 ++ s.acc.setWidth 8
  | 9 => s.cursor
  | 10 => s.outCount
  | _ => 0#32

/-- CSR_READ (R231): RDATA on the host port; no state of the engine changes. -/
def execCsrRead (idx : BitVec 4) (s : State) : Host.Outcome State Fault Refusal :=
  .next { s with rdata := s.csrValue idx }

/-- The START command (R232): latch the configuration, unless a run is in progress or pending (START_IGNORED). The run sees every
write of PIX before it (20_memory.md rule R76), so no byte of PIX counts as written during it yet (log 10). -/
def State.startCommand (s : State) : State :=
  if s.busy then s
  else { s with
    lWidth := s.width
    lHeight := s.height
    lDepth := s.depth
    lBuflen := s.buflen
    startReq := true
    pixDirty := [] }

/-- The state after a CSR write (R232). -/
def State.csrStore (s : State) (idx : BitVec 4) (wdata : Word) : State :=
  match idx.toNat with
  | 0 => if wdata.getLsbD 0 then s.startCommand else s
  | 2 => { s with width := wdata.setWidth 16 }
  | 3 => { s with height := wdata.setWidth 16 }
  | 4 => { s with depth := wdata.setWidth 8 }
  | 5 => { s with buflen := wdata }
  | _ => s

/-- CSR_WRITE (R232). -/
def execCsrWrite (idx : BitVec 4) (wdata : Word) (s : State) : Host.Outcome State Fault Refusal :=
  .next (s.csrStore idx wdata)

/-- RESET (R270). -/
def execReset (s : State) : Host.Outcome State Fault Refusal := .next s.applyReset

/-- The host writes a byte of its pixel memory (20_memory.md rule R62). An address of the run, written while BUSY, is noted: the
engine's later reads of it are any byte (R75, U3; log 10). -/
def State.hostPixWrite (s : State) (a : Word) (b : Byte) : State :=
  { s with
    pix := s.pix.write a.toNat b
    pixDirty := if s.busy ∧ a.toNat < s.runLength ∧ a.toNat ∉ s.pixDirty then a.toNat :: s.pixDirty else s.pixDirty }

end Sys2Proof.Machine
end

