-- ==== Sys2Proof/Machine/PixelSource.lean ====
section
/-! DEFINITION. The Pixel Source (41_pixel_source.md). -/

namespace Sys2Proof.Machine

/-- NEXT_PIXEL (R120), called by itself. -/
def execNextPixel (s : State) : Host.Outcome State Fault Refusal :=
  .next { s.nextPixel.2.2 with result := .pixel s.nextPixel.1 s.nextPixel.2.1 }

end Sys2Proof.Machine
end

