-- ==== Sys2Proof/Machine/Dispatch.lean ====
section
/-! DEFINITION. exec: one arm per row of the opcode table. -/

namespace Sys2Proof.Machine

def exec (i : Instr) (s : State) : Host.Outcome State Fault Refusal :=
  match i with
  | .startInvalid => Sys2Proof.Machine.execStartInvalid s
  | .startOk => Sys2Proof.Machine.execStartOk s
  | .pixelHit => Sys2Proof.Machine.execPixelHit s
  | .pixelMissInsert => Sys2Proof.Machine.execPixelMissInsert s
  | .pixelMissFull => Sys2Proof.Machine.execPixelMissFull s
  | .finish => Sys2Proof.Machine.execFinish s
  | .clearBlock => Sys2Proof.Machine.execClearBlock s
  | .csrRead idx => Sys2Proof.Machine.execCsrRead idx s
  | .csrWrite idx wdata => Sys2Proof.Machine.execCsrWrite idx wdata s
  | .reset => Sys2Proof.Machine.execReset s
  | .nextPixel => Sys2Proof.Machine.execNextPixel s
  | .dictClear => Sys2Proof.Machine.execDictClear s
  | .dictHash ent c => Sys2Proof.Machine.execDictHash ent c s
  | .dictLookup ent c => Sys2Proof.Machine.execDictLookup ent c s
  | .dictInsert slot fcode code => Sys2Proof.Machine.execDictInsert slot fcode code s
  | .emit code => Sys2Proof.Machine.execEmit code s
  | .byteOut b => Sys2Proof.Machine.execByteOut b s
  | .blockFlush => Sys2Proof.Machine.execBlockFlush s
  | .headerOut init => Sys2Proof.Machine.execHeaderOut init s
  | .terminatorOut => Sys2Proof.Machine.execTerminatorOut s
  | .sinkWrite b => Sys2Proof.Machine.execSinkWrite b s
  | .validate => Sys2Proof.Machine.execValidate s

end Sys2Proof.Machine
end

