-- ==== Sys2Proof/WellFormed.lean ====
section
/-! DEFINITION. The operand ranges the spec gives the operations. -/

namespace Sys2Proof

/-- DICT_INSERT takes a slot of the table, 0..5002 (R136, R63). Every other operand may have any value of its width (HEADER_OUT's
only caller passes INIT, 2..8, but its pseudocode writes whatever four bits it is given, R212). -/
def Instr.wellFormed : Instr → Bool
  | .startInvalid => true
  | .startOk => true
  | .pixelHit => true
  | .pixelMissInsert => true
  | .pixelMissFull => true
  | .finish => true
  | .clearBlock => true
  | .csrRead _ => true
  | .csrWrite _ _ => true
  | .reset => true
  | .nextPixel => true
  | .dictClear => true
  | .dictHash _ _ => true
  | .dictLookup _ _ => true
  | .dictInsert slot _ _ => decide (slot.toNat < Config.hSize)
  | .emit _ => true
  | .byteOut _ => true
  | .blockFlush => true
  | .headerOut _ => true
  | .terminatorOut => true
  | .sinkWrite _ => true
  | .validate => true

end Sys2Proof
end

