-- ==== Sys2Proof/Decode.lean ====
section
/-! DEFINITION. Decoding and encoding of the operations (30_encoding.md sections 3 and 4).

The opcode table has four formats, and a word alone does not say which one it is in (log 1): the dispatch vector DV (8 bits), the
host transaction HB (37 bits), the reset signal (1 bit) and the call of a primitive (UOP, 4 bits, with operands the hardware does
not encode: the layout of `encodePrimitive` is the model's, log 2). -/

namespace Sys2Proof

/-- The bits hi..lo of a word as a value of width w = hi - lo + 1 (R11: `v[hi:lo]`). -/
def field {n : Nat} (v : BitVec n) (lo w : Nat) : BitVec w := v.extractLsb' lo w

/-- One row of the operation map R100: the DVs whose bits under the mask are `value` select `op`. -/
structure DispatchRow where
  value : BitVec 8
  mask : BitVec 8
  op : Instr
  deriving DecidableEq, Repr

/-- The operation map (R100). -/
def dispatchRows : List DispatchRow :=
  [ ⟨0x08#8, 0x88#8, .startInvalid⟩,
    ⟨0x88#8, 0x88#8, .startOk⟩,
    ⟨0x21#8, 0x3F#8, .pixelHit⟩,
    ⟨0x01#8, 0x7F#8, .pixelMissInsert⟩,
    ⟨0x41#8, 0x7F#8, .pixelMissFull⟩,
    ⟨0x11#8, 0x1F#8, .finish⟩,
    ⟨0x02#8, 0x0F#8, .clearBlock⟩ ]

def DispatchRow.selects (dv : BitVec 8) (r : DispatchRow) : Bool := dv &&& r.mask == r.value

/-- The DVs that cannot occur (R101): STATE in 5..7, or SR = 1 in RUNNING or CLEARING. -/
def dvUnreachable (dv : BitVec 8) : Bool :=
  let st := (field dv 0 3).toNat
  5 ≤ st || (dv.getLsbD 3 && (st == 1 || st == 2))

/-- The operation a DV selects (R100), refused by name where there is none (R101, R159). -/
def decodeDispatch (dv : BitVec 8) : Except Reject Instr :=
  if dvUnreachable dv then .error .unreachableDispatch
  else match dispatchRows.find? (DispatchRow.selects dv) with
    | some r => .ok r.op
    | none => .error .noStep

/-- A host transaction HB = {WE, IDX[3:0], WDATA[31:0]} (R98). Every HB is an access (R103). -/
def decodeHost (hb : BitVec 37) : Instr :=
  if hb.getLsbD 36 then .csrWrite (field hb 32 4) (field hb 0 32)
  else .csrRead (field hb 32 4)

/-- The reset signal: 1 = asserted (opcode table, row RESET). -/
def decodeSignal (rst : BitVec 1) : Except Reject Instr :=
  if rst = 1#1 then .ok .reset else .error .signalLow

/-- A primitive's operands as the call word holds them, from bit 8 up, and the first bit above them. -/
def callFields (w : BitVec 56) : Except Reject (Instr × Nat) :=
  match (field w 0 4).toNat with
  | 0x1 => .ok (.nextPixel, 8)
  | 0x2 => .ok (.dictClear, 8)
  | 0x3 => .ok (.dictHash (field w 8 12) (field w 20 8), 28)
  | 0x4 => .ok (.dictLookup (field w 8 12) (field w 20 8), 28)
  | 0x5 => .ok (.dictInsert (field w 8 13) (field w 21 20) (field w 41 12), 53)
  | 0x6 => .ok (.emit (field w 8 12), 20)
  | 0x7 => .ok (.byteOut (field w 8 8), 16)
  | 0x8 => .ok (.blockFlush, 8)
  | 0x9 => .ok (.headerOut (field w 8 4), 12)
  | 0xA => .ok (.terminatorOut, 8)
  | 0xB => .ok (.sinkWrite (field w 8 8), 16)
  | 0xC => .ok (.validate, 8)
  | _ => .error .noSuchPrimitive

/-- A primitive's call word (log 2): UOP in bits 3..0 (R102), bits 7..4 zero, the operands from bit 8 up, zeros above them. -/
def decodePrimitive (w : BitVec 56) : Except Reject Instr :=
  match callFields w with
  | .ok (i, top) =>
      if field w 4 4 = 0#4 ∧ w >>> top = 0#56 ∧ i.wellFormed = true then .ok i else .error .illFormedCall
  | .error e => .error e

/-- How many bits a word of a format has. -/
def Format.width : Format → Nat
  | .dispatch => 8
  | .host => 37
  | .signal => 1
  | .primitive => 56

/-- Decoding, total on every word of every format, refusing by name. -/
def decode (f : Format) (w : Nat) : Except Reject Instr :=
  if 2 ^ f.width ≤ w then .error .tooWide
  else match f with
    | .dispatch => decodeDispatch (BitVec.ofNat 8 w)
    | .host => .ok (decodeHost (BitVec.ofNat 37 w))
    | .signal => decodeSignal (BitVec.ofNat 1 w)
    | .primitive => decodePrimitive (BitVec.ofNat 56 w)

/-! ### The encoder, written from the same tables. -/

/-- HB of a host access; a read's WDATA is ignored (R98) and encoded as 0. -/
def encodeHost (we : Bool) (idx : BitVec 4) (wdata : Word) : BitVec 37 :=
  BitVec.ofBool we ++ idx ++ wdata

/-- The call word of a primitive: UOP, four zero bits, then the operands, lowest first (log 2). -/
def encodePrimitive (uop : Nat) (operands : Nat) : BitVec 56 :=
  BitVec.ofNat 56 (operands * 256 + uop)

/-- The format of an operation's row. -/
def Instr.format : Instr → Format
  | .startInvalid => .dispatch
  | .startOk => .dispatch
  | .pixelHit => .dispatch
  | .pixelMissInsert => .dispatch
  | .pixelMissFull => .dispatch
  | .finish => .dispatch
  | .clearBlock => .dispatch
  | .csrRead _ => .host
  | .csrWrite _ _ => .host
  | .reset => .signal
  | .nextPixel => .primitive
  | .dictClear => .primitive
  | .dictHash _ _ => .primitive
  | .dictLookup _ _ => .primitive
  | .dictInsert _ _ _ => .primitive
  | .emit _ => .primitive
  | .byteOut _ => .primitive
  | .blockFlush => .primitive
  | .headerOut _ => .primitive
  | .terminatorOut => .primitive
  | .sinkWrite _ => .primitive
  | .validate => .primitive

/-- The word of an operation in its format. A dispatch row's word has its ignored bits 0. -/
def encode : Instr → Nat
  | .startInvalid => 0x08
  | .startOk => 0x88
  | .pixelHit => 0x21
  | .pixelMissInsert => 0x01
  | .pixelMissFull => 0x41
  | .finish => 0x11
  | .clearBlock => 0x02
  | .csrRead idx => (encodeHost false idx 0#32).toNat
  | .csrWrite idx wdata => (encodeHost true idx wdata).toNat
  | .reset => 1
  | .nextPixel => (encodePrimitive 0x1 0).toNat
  | .dictClear => (encodePrimitive 0x2 0).toNat
  | .dictHash ent c => (encodePrimitive 0x3 (c.toNat * 2 ^ 12 + ent.toNat)).toNat
  | .dictLookup ent c => (encodePrimitive 0x4 (c.toNat * 2 ^ 12 + ent.toNat)).toNat
  | .dictInsert slot fcode code =>
      (encodePrimitive 0x5 (code.toNat * 2 ^ 33 + fcode.toNat * 2 ^ 13 + slot.toNat)).toNat
  | .emit code => (encodePrimitive 0x6 code.toNat).toNat
  | .byteOut b => (encodePrimitive 0x7 b.toNat).toNat
  | .blockFlush => (encodePrimitive 0x8 0).toNat
  | .headerOut init => (encodePrimitive 0x9 init.toNat).toNat
  | .terminatorOut => (encodePrimitive 0xA 0).toNat
  | .sinkWrite b => (encodePrimitive 0xB b.toNat).toNat
  | .validate => (encodePrimitive 0xC 0).toNat

/-! ### The opcode table's words (log 1). -/

/-- The format in which a word of the opcode table is read, given how many bits the table gives its row. Only 8 bits are
ambiguous, between DV, UOP and the reset signal: a word that equals the match of a DV row is that row's, another one below 0x10 is a
UOP, and every other one is a DV. -/
def tableFormat (nbits w : Nat) : Format :=
  if nbits ≤ 1 then .signal
  else if nbits ≤ 4 then .primitive
  else if nbits ≤ 8 then
    if dispatchRows.any (fun r => r.value.toNat == w) then .dispatch
    else if w < 16 then .primitive
    else .dispatch
  else if nbits ≤ 40 then .host
  else .primitive

/-- The operation decoded from a word of the opcode table (none where the decoder refuses). -/
def decodeTableWord (nbits w : Nat) : Option Instr :=
  match decode (tableFormat nbits w) w with
  | .ok i => some i
  | .error _ => none

end Sys2Proof
end

