-- ==== Sys2Proof/Machine/Fetch.lean ====
section
/-! DEFINITION. What the next step is (20_memory.md rule R73, 43_driver.md rule R150): the environment's next move, or the engine's
operation selected by the dispatch vector; and placing a word of the opcode table where the next step finds it. -/

namespace Sys2Proof.Machine

/-- The engine's turn (R150). It takes no step while it is inside one that does not end (45_block_writer.md rule R216), and none in
IDLE, DONE and ERROR without START_REQ (R159): nothing changes (log 3). A DV that cannot occur is a fault (30_encoding.md rule
R101), and so is a reserved ERRCODE (U8). Where both are held the spec gives no order: DESIGN CHOICE (log 16), ERRCODE is tested
first. -/
def State.engineTurn (s : State) : Fetch :=
  match s.stuck with
  | some _ => .move s
  | none =>
    if errSinkFailure.toNat < s.errCode.toNat then .fault .reservedErrCode
    else match s.dispatchVector with
      | none => .move (s.enterStuck s .probe)
      | some dv =>
        match decodeDispatch dv with
        | .ok i => .run i s
        | .error .noStep => .move s
        | .error _ => .fault .unreachableDispatch

/-- A primitive called by itself (log 2): not while the engine is inside a step. -/
def State.callTurn (s : State) (call : BitVec 56) : Fetch :=
  match s.stuck with
  | some _ => .move s
  | none =>
    match decodePrimitive call with
    | .ok i => .run i s
    | .error why => .refuse (.noSuchCall why)

/-- The next step (R73): the environment's next move, taken off its list, or the engine's turn where there is none. -/
def State.fetch (s : State) : Fetch :=
  match s.inputs with
  | [] => s.engineTurn
  | .engine :: rest => (s.withInputs rest).engineTurn
  | .host hb :: rest => .run (decodeHost hb) (s.withInputs rest)
  | .reset :: rest => .run .reset (s.withInputs rest)
  | .primitive call :: rest => (s.withInputs rest).callTurn call
  | .pixWrite a b :: rest => .move ((s.withInputs rest).hostPixWrite a b)

/-! ### Placing a word of the opcode table (log 18) -/

/-- A state whose dispatch vector is dv and whose next move is the engine's: STATE and SR as in dv; CURSOR and N for EOS; FREE_ENT for
FULL; the latched configuration for CFG_OK; and, where HIT is computed (RUNNING with a pixel left), a table that holds the key of
(ENT, PIX[0]) in its primary slot, or nothing. -/
def State.placeDispatch (s : State) (dv : BitVec 8) : State :=
  let eos := dv.getLsbD 4
  let c := (State.pixRead s 0).1
  let s := { s with
    inputs := .engine :: s.inputs
    stuck := none
    state := field dv 0 3
    startReq := dv.getLsbD 3
    cursor := 0#32
    n := if eos then 0#32 else 1#32
    freeEnt :=
      if dv.getLsbD 6 then BitVec.ofNat 13 Config.maxCodes
      else if s.freeEnt.toNat = Config.maxCodes then 0#13 else s.freeEnt
    lWidth := if dv.getLsbD 7 then 1#16 else 0#16
    lHeight := 1#16
    lDepth := 1#8
    lBuflen := 1#32 }
  if s.state = stRunning ∧ eos = false then
    if dv.getLsbD 5 then s.dictClear.dictInsert (primarySlot s.ent c).toNat (fcodeOf s.ent c) 0#12 else s.dictClear
  else s

/-- A word of the opcode table placed where the next step finds it. -/
def State.placeWord (s : State) (nbits w : Nat) : State :=
  match tableFormat nbits w with
  | .dispatch => s.placeDispatch (BitVec.ofNat 8 w)
  | .host => s.withInputs (.host (BitVec.ofNat 37 w) :: s.inputs)
  | .signal => s.withInputs ((if w = 1 then .reset else .engine) :: s.inputs)
  | .primitive => { s with inputs := .primitive (BitVec.ofNat 56 w) :: s.inputs, stuck := none }

end Sys2Proof.Machine
end

