-- ==== Sys2Proof/Machine/Step.lean ====
section
/-! DEFINITION. One step of the machine, and placing a word of the opcode table as its next instruction. -/

namespace Sys2Proof.Machine

/-- One step (00_scope.md rule R7, 20_memory.md rule R73): run what is fetched. -/
def step (s : State) : Host.Outcome State Fault Refusal :=
  match s.fetch with
  | .run i t => exec i t
  | .move t => .next t
  | .fault f => .fault f
  | .refuse r => .refused r

/-- The state in which the next step runs the word w of the opcode table (log 18). -/
def State.withFetchWord (s : State) (nbits w : Nat) : State := s.placeWord nbits w

end Sys2Proof.Machine
end

