-- ==== Sys2Proof/Safety.lean ====
section
/-! DEFINITION. What a good state is, in the terms the claims use: the ranges of a run (10_state.md rule R36), the invariant of the
machine, and the form of the output (30_encoding.md rule R93). -/

namespace Sys2Proof.Machine

/-- How many slots of HT are not EMPTY (R36, R137). -/
def State.occupied (s : State) : Nat := s.ht.toList.countP Option.isSome

/-- A run is going on: STATE is RUNNING or CLEARING. -/
def State.inRun (s : State) : Prop := s.state = stRunning ∨ s.state = stClearing

/-- What holds between any two steps of a run (R36). ENT ≤ 4095 is its width. -/
structure State.RunInv (s : State) : Prop where
  init_range : 2 ≤ s.init.toNat ∧ s.init.toNat ≤ 8
  clear_eq : s.clear.toNat = 2 ^ s.init.toNat
  eofc_eq : s.eofc.toNat = s.clear.toNat + 1
  nBits_range : s.init.toNat + 1 ≤ s.nBits.toNat ∧ s.nBits.toNat ≤ 12
  maxCode_eq : s.maxCode.toNat = 2 ^ s.nBits.toNat - 1
  freeEnt_range : s.clear.toNat + 2 ≤ s.freeEnt.toNat ∧ s.freeEnt.toNat ≤ 4096
  freeEnt_fits : s.freeEnt.toNat ≤ s.maxCode.toNat + 1
  clearFlag_eq : s.clearFlag = false
  bits_range : s.bits.toNat ≤ 7
  acc_range : s.acc.toNat < 2 ^ s.bits.toNat
  aCount_range : s.aCount.toNat ≤ 253
  cursor_range : if s.entValid then 1 ≤ s.cursor.toNat ∧ s.cursor.toNat ≤ s.n.toNat else s.cursor = 0#32 ∧ s.n = 0#32
  occupied_eq : s.occupied = s.freeEnt.toNat - (s.clear.toNat + 2)
  clearing_full : s.state = stClearing → s.freeEnt.toNat = 4096

/-- No primitive is called by itself: the schedule holds only what the hardware has (log 2). -/
def Input.isCall : Input → Bool
  | .primitive _ => true
  | .host _ => false
  | .reset => false
  | .pixWrite _ _ => false
  | .engine => false

/-- The invariant of the machine: STATE and ERRCODE hold no reserved code (R21, R35); START_REQ is set only in IDLE, DONE and ERROR
(R22); a run keeps its ranges, and in DONE nothing is pending (R36); PIX keeps its canonical form. -/
structure State.Inv (s : State) : Prop where
  state_legal : s.state.toNat ≤ 4
  errCode_legal : s.errCode.toNat ≤ 2
  startReq_quiet : s.startReq = true → ¬ s.inRun
  in_run : s.inRun → s.RunInv
  done_empty : s.state = stDone → s.bits = 0#5 ∧ s.acc = 0#19 ∧ s.aCount = 0#8
  pix_wf : s.pix.wf = true
  no_calls : ∀ i ∈ s.inputs, i.isCall = false

/-- A sequence of data sub-blocks: each a length byte in 1..254 and that many data bytes (R93). -/
inductive SubBlocks : List Byte → Prop where
  | nil : SubBlocks []
  | cons (data rest : List Byte) : 1 ≤ data.length → data.length ≤ 254 → SubBlocks rest →
      SubBlocks (BitVec.ofNat 8 data.length :: data ++ rest)

/-- What the sink holds of the run between two steps (R93, R277, R284): after what it held before the run, INIT and whole
sub-blocks, and in DONE at least one sub-block and the terminator; OUTCOUNT is their length (R34, R217). -/
structure State.OutputInv (s : State) : Prop where
  running : s.stuck = none → s.inRun →
    ∃ before body, s.sinkOut = before ++ s.init.setWidth 8 :: body ∧ SubBlocks body ∧
      s.outCount = BitVec.ofNat 32 (body.length + 1)
  done : s.stuck = none → s.state = stDone →
    ∃ before body, s.sinkOut = before ++ s.init.setWidth 8 :: body ++ [0x00#8] ∧ SubBlocks body ∧ body ≠ [] ∧
      s.outCount = BitVec.ofNat 32 (body.length + 2)

/-- The dictionary is sound during a run (42_dictionary.md rules R135 to R137): the lookup of a stored pair hits its slot and gives
its code; a stored code is one allocated since the last clear; no two slots hold the same code. -/
structure State.DictInv (s : State) : Prop where
  reachable : s.inRun → ∀ (i : Nat) (ent : Code) (c : Byte), s.key i = some (fcodeOf ent c) →
    s.dictLookup ent c = .hit (s.codeAt i) (BitVec.ofNat 13 i)
  allocated : s.inRun → ∀ i : Nat, s.key i ≠ none →
    s.clear.toNat + 2 ≤ (s.codeAt i).toNat ∧ (s.codeAt i).toNat < s.freeEnt.toNat
  distinct : s.inRun → ∀ i j : Nat, s.key i ≠ none → s.key j ≠ none → s.codeAt i = s.codeAt j → i = j

/-- The sink accepts each of the next k bytes. -/
abbrev State.accepts (s : State) (k : Nat) : Prop := s.sinkAnswers.take k = List.replicate k SinkAnswer.accept

/-- The state after the sink accepted the bytes bs: they are output and counted (45_block_writer.md rule R216). -/
def State.afterBytes (s : State) (bs : List Byte) : State :=
  { s with
    sinkOut := s.sinkOut ++ bs
    outCount := s.outCount + BitVec.ofNat 32 bs.length
    sinkAnswers := s.sinkAnswers.drop bs.length }

/-- The bit accumulator and the width are in the ranges of R36 and R193. -/
abbrev State.packed (s : State) : Prop :=
  s.bits.toNat ≤ 7 ∧ s.acc.toNat < 2 ^ s.bits.toNat ∧ s.nBits.toNat ≤ 12

/-- The bits held and the code's N_BITS low bits directly above them, as a number (44_bit_packer.md rule R191). -/
def State.packedValue (s : State) (code : Code) : Nat :=
  s.acc.toNat + (code.toNat % 2 ^ s.nBits.toNat) * 2 ^ s.bits.toNat

/-- The k low bytes of a number, lowest first: bit t of the stream is bit t mod 8 of byte t / 8 (R191). -/
def lowBytes (v k : Nat) : List Byte := (List.range k).map fun j => BitVec.ofNat 8 (v / 256 ^ j)

/-- What a full flush of pending data bytes writes: a sub-block of 254 as soon as there are 254, and one of the rest, if any
(45_block_writer.md rules R210, R211). -/
def framed (data : List Byte) : List Byte :=
  if data.length < 254 then (if data = [] then [] else BitVec.ofNat 8 data.length :: data)
  else 0xFE#8 :: data.take 254 ++
    (if data.drop 254 = [] then [] else BitVec.ofNat 8 (data.drop 254).length :: data.drop 254)

/-- How much of a run is left (43_driver.md rule R163): two for each pixel to come, one for a clear to come. -/
def State.remaining (s : State) : Nat :=
  2 * (s.n.toNat - s.cursor.toNat) + if s.state = stClearing then 1 else 0

end Sys2Proof.Machine
end

