-- ==== Sys2Proof/Certificates/Slice0/Obligations.lean ====
section
/-! DEFINITION. The statements about the machine, one per definition, listed in OBLIGATIONS.json. -/

open Sys2Proof Sys2Proof.Machine

/-! ### Encodings -/

/-- Words written out from 30_encoding.md and 95_test_vectors.md section 7 decode to the operations they stand for: `W WIDTH, 2`,
`R OUTCNT`, `W CTRL, 1`, `W 15, 0xFFFFFFFF`, the DVs of the programs P1 to P3, and the reset signal. -/
def Obligations.WordsOfTheSpecDecode : Prop :=
  decode .host 0x1200000002 = .ok (.csrWrite 2#4 2#32) ∧
  decode .host 0x0A00000000 = .ok (.csrRead 10#4) ∧
  decode .host 0x1000000001 = .ok (.csrWrite 0#4 1#32) ∧
  decode .host 0x1FFFFFFFFF = .ok (.csrWrite 15#4 0xFFFFFFFF#32) ∧
  decode .dispatch 0x98 = .ok .startOk ∧
  decode .dispatch 0x1C = .ok .startInvalid ∧
  decode .dispatch 0x81 = .ok .pixelMissInsert ∧
  decode .dispatch 0xA1 = .ok .pixelHit ∧
  decode .dispatch 0x91 = .ok .finish ∧
  decode .dispatch 0xC1 = .ok .pixelMissFull ∧
  decode .dispatch 0xC2 = .ok .clearBlock ∧
  decode .dispatch 0x93 = .error .noStep ∧
  decode .signal 1 = .ok .reset

/-- R100: the operation map. For every DV that can occur at most one row matches, and exactly one does outside the last line's states;
the operation is the one of the row's condition. A host transaction is selected by WE, RESET by the reset signal. -/
def Obligations.EveryPossibleDispatchVectorSelectsItsRow : Prop :=
  (∀ (cfgOk full hit eos sr : Bool) (state : BitVec 3),
    let dv := packDispatch cfgOk full hit eos sr state
    let matching := (dispatchRows.filter (DispatchRow.selects dv)).map DispatchRow.op
    state.toNat ≤ 4 → ¬(sr = true ∧ (state = stRunning ∨ state = stClearing)) →
      (matching =
        if sr then [if cfgOk then .startOk else .startInvalid]
        else if state = stRunning then
          [if eos then .finish else if hit then .pixelHit else if full then .pixelMissFull else .pixelMissInsert]
        else if state = stClearing then [.clearBlock]
        else []) ∧
      decodeDispatch dv = (match matching with | i :: _ => .ok i | [] => .error .noStep)) ∧
  (∀ hb : BitVec 37,
    decodeHost hb = if hb.getLsbD 36 then .csrWrite (field hb 32 4) (field hb 0 32) else .csrRead (field hb 32 4)) ∧
  decode .signal 1 = .ok .reset

/-- Every well-formed operation, with every operand, decodes from its own word: no bit of an encoding is dropped. The layout of a
primitive's operands is the model's (log 2). -/
def Obligations.DecodeUndoesEncode : Prop :=
  ∀ i : Instr, i.wellFormed = true → decode i.format (encode i) = .ok i

/-- The decoder answers only well-formed operations of the format it was asked about, and each primitive has one call word and each
CSR write one transaction (the layout of a primitive's call word is the model's, log 2). -/
def Obligations.EncodeUndoesDecode : Prop :=
  ∀ (f : Format) (w : Nat) (i : Instr), decode f w = .ok i →
    i.wellFormed = true ∧ i.format = f ∧
    (f = .primitive → encode i = w) ∧
    (∀ idx wdata, i = .csrWrite idx wdata → encode i = w)

/-! ### The step -/

/-- A step runs the host's transaction, the reset signal, or the primitive called by itself (log 2), when it is the next move (log 3). -/
def Obligations.StepRunsTheHostsMove : Prop :=
  ∀ (s : State) (rest : List Input),
    (∀ hb, s.inputs = .host hb :: rest → step s = exec (decodeHost hb) (s.withInputs rest)) ∧
    (s.inputs = .reset :: rest → step s = exec .reset (s.withInputs rest)) ∧
    (∀ call i, s.inputs = .primitive call :: rest → s.stuck = none → decodePrimitive call = .ok i →
      step s = exec i (s.withInputs rest))

/-- In the engine's turn a step runs the operation that the dispatch vector selects (43_driver.md rule R150). -/
def Obligations.StepRunsTheDispatchedOperation : Prop :=
  ∀ (s t : State) (dv : BitVec 8) (i : Instr),
    (s.inputs = [] ∧ t = s ∨ ∃ rest, s.inputs = .engine :: rest ∧ t = s.withInputs rest) →
    t.stuck = none → t.errCode.toNat ≤ 2 →
    t.dispatchVector = some dv → decodeDispatch dv = .ok i →
    step s = exec i t

/-- R101: in the engine's turn a dispatch vector that cannot occur is a fault, whatever its other bits: STATE is 5, 6 or 7, or SR = 1 in
RUNNING or CLEARING. The premises are those under which the engine takes its turn and has a vector: it is not inside a step that does not
end (log 5), HIT's lookup ends (log 12), and no reserved ERRCODE is held, which the model reports first (log 16). -/
def Obligations.UnreachableDispatchVectorFaults : Prop :=
  ∀ s t : State, (s.inputs = [] ∧ t = s ∨ ∃ rest, s.inputs = .engine :: rest ∧ t = s.withInputs rest) →
    t.stuck = none → t.errCode.toNat ≤ 2 → t.hit ≠ none →
    (5 ≤ t.state.toNat ∨ (t.startReq = true ∧ (t.state = stRunning ∨ t.state = stClearing))) →
    step s = .fault .unreachableDispatch

/-- R159: in IDLE, DONE and ERROR with START_REQ = 0 the engine has no step; the model's step in the engine's turn, taken off the schedule,
then changes nothing (log 3). -/
def Obligations.QuiescentEngineTakesNoStep : Prop :=
  ∀ s t : State, (s.inputs = [] ∧ t = s ∨ ∃ rest, s.inputs = .engine :: rest ∧ t = s.withInputs rest) →
    t.errCode.toNat ≤ 2 → t.startReq = false →
    (t.state = stIdle ∨ t.state = stDone ∨ t.state = stError) →
    step s = .next t

/-- 45_block_writer.md rule R216 and U5, as the model takes them (log 5), and a probe that never ends (42_dictionary.md rule R133, log 12): inside a
step that does not end the engine's turn changes nothing, a call by itself does not begin (log 2), the host's transactions and its
writes of PIX leave the engine inside the step, and RESET ends it. -/
def Obligations.StuckEngineIsLeftOnlyByReset : Prop :=
  ∀ (s : State) (w : Stuck), s.stuck = some w →
    (s.inputs = [] → step s = .next s) ∧
    (∀ rest, s.inputs = .engine :: rest → step s = .next (s.withInputs rest)) ∧
    (∀ call rest, s.inputs = .primitive call :: rest → step s = .next (s.withInputs rest)) ∧
    (∀ hb rest, s.inputs = .host hb :: rest → ∃ t, step s = .next t ∧ t.stuck = some w) ∧
    (∀ a b rest, s.inputs = .pixWrite a b :: rest → ∃ t, step s = .next t ∧ t.stuck = some w) ∧
    (∀ rest, s.inputs = .reset :: rest → ∃ t, step s = .next t ∧ t.stuck = none)

/-- The host's write of a byte of PIX (20_memory.md rule R62) is read back, leaves every other byte, and is noted as written during the
run exactly where R75 says so (the note is the model's, log 10). -/
def Obligations.HostWriteOfPixIsReadBack : Prop :=
  ∀ (s : State) (a : Word) (b : Byte) (rest : List Input), s.inputs = .pixWrite a b :: rest → s.pix.wf = true →
    ∃ t, step s = .next t ∧
      t = { s with inputs := rest, pix := t.pix, pixDirty := t.pixDirty } ∧
      t.pix.wf = true ∧ t.pix.read a.toNat = b ∧
      (∀ a', a' ≠ a.toNat → t.pix.read a' = s.pix.read a') ∧
      (∀ a', a' ∈ t.pixDirty ↔ a' ∈ s.pixDirty ∨ (a' = a.toNat ∧ s.busy = true ∧ a' < s.runLength))

/-! ### The host interface -/

/-- R44: STATUS. -/
def Obligations.StatusShowsItsFields : Prop :=
  (∀ s : State, ∃ v : Word, exec (.csrRead 1#4) s = .next { s with rdata := v } ∧
    field v 0 3 = s.state ∧
    (v.getLsbD 3 = true ↔ s.startReq = true ∨ s.state = stRunning ∨ s.state = stClearing) ∧
    field v 4 4 = s.errCode ∧
    v.getLsbD 8 = s.reason.getLsbD 0 ∧ v.getLsbD 9 = s.reason.getLsbD 1 ∧
    v.getLsbD 10 = s.reason.getLsbD 2 ∧ v.getLsbD 11 = s.reason.getLsbD 3 ∧
    v.getLsbD 12 = s.startReq ∧ field v 13 19 = 0#19) ∧
  (∀ (s : State) (wdata : Word), exec (.csrWrite 1#4 wdata) s = .next s) ∧
  exec (.csrRead 1#4) State.reset = .next { State.reset with rdata := 0#32 }

/-- R49, R50, R51: CODESTATE, ENTSTATE and PACKSTATE. -/
def Obligations.ProgressRegistersShowTheirFields : Prop :=
  (∀ s : State, ∃ v : Word, exec (.csrRead 6#4) s = .next { s with rdata := v } ∧
    field v 0 4 = s.nBits ∧ field v 4 13 = s.freeEnt ∧ v.getLsbD 17 = s.clearFlag ∧ field v 18 4 = s.init ∧
    field v 22 10 = 0#10) ∧
  (∀ s : State, ∃ v : Word, exec (.csrRead 7#4) s = .next { s with rdata := v } ∧
    field v 0 12 = s.ent ∧ v.getLsbD 12 = s.entValid ∧ field v 13 19 = 0#19) ∧
  (∀ s : State, ∃ v : Word, exec (.csrRead 8#4) s = .next { s with rdata := v } ∧
    field v 0 8 = field s.acc 0 8 ∧ field v 8 4 = field s.bits 0 4 ∧ field v 12 8 = s.aCount ∧ field v 20 12 = 0#12) ∧
  (∀ (s : State) (idx : BitVec 4) (wdata : Word), idx = 6#4 ∨ idx = 7#4 ∨ idx = 8#4 →
    exec (.csrWrite idx wdata) s = .next s ∧
    exec (.csrRead idx) State.reset = .next { State.reset with rdata := 0#32 })

/-- R52, R53: PIXCOUNT holds CURSOR and OUTCNT holds OUTCOUNT; both are read-only and reset to 0. -/
def Obligations.CountersAreShownAndReadOnly : Prop :=
  (∀ s : State, exec (.csrRead 9#4) s = .next { s with rdata := s.cursor } ∧
    exec (.csrRead 10#4) s = .next { s with rdata := s.outCount }) ∧
  (∀ (s : State) (wdata : Word), exec (.csrWrite 9#4 wdata) s = .next s ∧ exec (.csrWrite 10#4 wdata) s = .next s) ∧
  State.reset.cursor = 0#32 ∧ State.reset.outCount = 0#32

/-- R54: indices 11 to 15. -/
def Obligations.ReservedIndicesReadZeroAndIgnoreWrites : Prop :=
  ∀ (s : State) (idx : BitVec 4) (wdata : Word), 11 ≤ idx.toNat →
    exec (.csrRead idx) s = .next { s with rdata := 0#32 } ∧ exec (.csrWrite idx wdata) s = .next s

/-- The configuration registers (10_state.md rules R45 to R48) store their fields, at any time, and read back zero-extended; CTRL reads 0
(R43). Nothing else changes. -/
def Obligations.ConfigurationRegistersStoreTheirFields : Prop :=
  ∀ (s : State) (wdata : Word),
    exec (.csrWrite 2#4 wdata) s = .next { s with width := field wdata 0 16 } ∧
    exec (.csrWrite 3#4 wdata) s = .next { s with height := field wdata 0 16 } ∧
    exec (.csrWrite 4#4 wdata) s = .next { s with depth := field wdata 0 8 } ∧
    exec (.csrWrite 5#4 wdata) s = .next { s with buflen := wdata } ∧
    exec (.csrRead 0#4) s = .next { s with rdata := 0#32 } ∧
    exec (.csrRead 2#4) s = .next { s with rdata := s.width.zeroExtend 32 } ∧
    exec (.csrRead 3#4) s = .next { s with rdata := s.height.zeroExtend 32 } ∧
    exec (.csrRead 4#4) s = .next { s with rdata := s.depth.zeroExtend 32 } ∧
    exec (.csrRead 5#4) s = .next { s with rdata := s.buflen }

/-- The START command with BUSY = 0 latches the configuration and sets START_REQ (46_host_interface.md rule R232); a write of CTRL with bit 0
clear does nothing. That no byte of PIX counts as written during the new run is the model's bookkeeping (log 10). -/
def Obligations.StartLatchesTheConfiguration : Prop :=
  ∀ (s : State) (wdata : Word), s.startReq = false → s.state ≠ stRunning → s.state ≠ stClearing →
    (wdata.getLsbD 0 = true →
      exec (.csrWrite 0#4 wdata) s = .next { s with
        lWidth := s.width
        lHeight := s.height
        lDepth := s.depth
        lBuflen := s.buflen
        startReq := true
        pixDirty := [] }) ∧
    (wdata.getLsbD 0 = false → exec (.csrWrite 0#4 wdata) s = .next s)

/-- R278: a START while BUSY = 1 leaves nothing behind for a later step to act on. -/
def Obligations.StartWhileBusyIsIgnored : Prop :=
  ∀ (s : State) (wdata : Word), s.startReq = true ∨ s.state = stRunning ∨ s.state = stClearing →
    exec (.csrWrite 0#4 wdata) s = .next s

/-- RESET, from every state (70_reset_and_hazards.md rule R270): every register as in 10_state.md rule R55, PIX kept, the sink's bytes kept
(and at most the byte it was being offered added, U6), the engine no longer inside a step. -/
def Obligations.ResetClearsEveryRegister : Prop :=
  ∀ s : State, ∃ t, exec .reset s = .next t ∧
    t.state = stIdle ∧ t.startReq = false ∧ t.errCode = 0#4 ∧ t.reason = 0#4 ∧
    t.width = 0#16 ∧ t.height = 0#16 ∧ t.depth = 0#8 ∧ t.buflen = 0#32 ∧
    t.lWidth = 0#16 ∧ t.lHeight = 0#16 ∧ t.lDepth = 0#8 ∧ t.lBuflen = 0#32 ∧
    t.init = 0#4 ∧ t.clear = 0#9 ∧ t.eofc = 0#9 ∧ t.n = 0#32 ∧
    t.cursor = 0#32 ∧ t.ent = 0#12 ∧ t.entValid = false ∧
    t.nBits = 0#4 ∧ t.maxCode = 0#12 ∧ t.freeEnt = 0#13 ∧ t.clearFlag = false ∧
    t.acc = 0#19 ∧ t.bits = 0#5 ∧ t.aCount = 0#8 ∧ t.outCount = 0#32 ∧
    (∀ idx, exec (.csrRead idx) t = .next { t with rdata := 0#32 }) ∧
    (∀ a, t.pix.read a = s.pix.read a) ∧
    (t.sinkOut = s.sinkOut ∨ ∃ b, s.stuck = some (.sink b) ∧ t.sinkOut = s.sinkOut ++ [b]) ∧
    t.stuck = none ∧ t.inputs = s.inputs

/-! ### Starting a run -/

/-- R275: a START with the configuration all 0, and the engine's step after it. -/
def Obligations.StartWithResetConfigurationIsRejected : Prop :=
  ∀ s : State, s.inputs = [.host 0x1000000001#37] → s.stuck = none →
    (s.state = stIdle ∨ s.state = stDone ∨ s.state = stError) → s.startReq = false → s.errCode.toNat ≤ 2 →
    s.width = 0#16 → s.height = 0#16 → s.depth = 0#8 → s.buflen = 0#32 →
    ∃ t u, step s = .next t ∧ step t = .next u ∧
      u.state = stError ∧ u.errCode = errInvalidInput ∧ u.reason = 0b0111#4 ∧ u.sinkOut = s.sinkOut

/-- VALIDATE (43_driver.md rule R151): each reason exactly when its check fails, all that hold at once, and no state written (`result` shows
what it returns, log 17). -/
def Obligations.ValidateReportsEveryFailedCheck : Prop :=
  ∀ s : State, ∃ r : BitVec 4, exec .validate s = .next { s with result := .reasons r } ∧
    (r.getLsbD 0 = true ↔ s.lWidth.toNat = 0) ∧
    (r.getLsbD 1 = true ↔ s.lHeight.toNat = 0) ∧
    (r.getLsbD 2 = true ↔ s.lDepth.toNat = 0 ∨ 8 < s.lDepth.toNat) ∧
    (r.getLsbD 3 = true ↔ s.lBuflen.toNat < s.lWidth.toNat * s.lHeight.toNat)

/-- R152, R242: START_INVALID raises InvalidInput with VALIDATE's reasons and changes nothing else; no byte is written. -/
def Obligations.RejectedStartChangesOnlyTheErrorRegisters : Prop :=
  ∀ s : State, exec .startInvalid s = .next { s with
    startReq := false
    outCount := 0#32
    reason := s.validate
    errCode := 1#4
    state := 4#3 }

/-- START_OK (43_driver.md rule R153) where the sink accepts the header. The first pixel is read as NEXT_PIXEL reads it (R120; log 10). -/
def Obligations.StartOkBeginsAFreshRun : Prop :=
  ∀ s : State, s.lWidth.toNat ≠ 0 → s.lHeight.toNat ≠ 0 → 1 ≤ s.lDepth.toNat → s.lDepth.toNat ≤ 8 → s.accepts 1 →
    ∃ t, exec .startOk s = .next t ∧
      (let I := max 2 s.lDepth.toNat
       t.state = stRunning ∧ t.startReq = false ∧ t.errCode = 0#4 ∧ t.reason = 0#4 ∧
       t.n.toNat = s.lWidth.toNat * s.lHeight.toNat ∧
       t.init.toNat = I ∧ t.clear.toNat = 2 ^ I ∧ t.eofc.toNat = 2 ^ I + 1 ∧
       t.nBits.toNat = I + 1 ∧ t.maxCode.toNat = 2 ^ (I + 1) - 1 ∧ t.freeEnt.toNat = 2 ^ I + 2 ∧ t.clearFlag = false ∧
       t.cursor = 1#32 ∧ t.ent.toNat = (s.pixRead 0).1.toNat ∧ t.entValid = true ∧
       t.acc.toNat = 2 ^ I / 256 ^ ((I + 1) / 8) ∧ t.bits.toNat = (I + 1) % 8 ∧
       t.pendingBytes = lowBytes (2 ^ I) ((I + 1) / 8) ∧
       (∀ j, (I + 1) / 8 ≤ j → t.blockByte j = s.blockByte j) ∧
       (∀ i, t.key i = none) ∧
       t.sinkOut = s.sinkOut ++ [BitVec.ofNat 8 I] ∧ t.outCount = 1#32 ∧ t.sinkAnswers = s.sinkAnswers.drop 1 ∧
       t.draws = (s.pixRead 0).2.draws) ∧
      t = { s with
        state := t.state, startReq := t.startReq, errCode := t.errCode, reason := t.reason, n := t.n, init := t.init,
        clear := t.clear, eofc := t.eofc, nBits := t.nBits, maxCode := t.maxCode, freeEnt := t.freeEnt,
        clearFlag := t.clearFlag, cursor := t.cursor, ent := t.ent, entValid := t.entValid, acc := t.acc, bits := t.bits,
        aCount := t.aCount, bb := t.bb, ht := t.ht, sinkOut := t.sinkOut, outCount := t.outCount,
        sinkAnswers := t.sinkAnswers, draws := t.draws }

/-- START_OK whose header byte the sink fails (43_driver.md rule R153, 60_exceptions.md rule R244): no byte is output, the four run
constants are set, and the configuration is kept. -/
def Obligations.StartOkWhoseHeaderFails : Prop :=
  ∀ (s : State) (rest : List SinkAnswer), s.sinkAnswers = .fail :: rest →
    1 ≤ s.lDepth.toNat → s.lDepth.toNat ≤ 8 →
    ∃ t, exec .startOk s = .next t ∧
      t.state = stError ∧ t.errCode = errSinkFailure ∧ t.reason = 0#4 ∧ t.startReq = false ∧
      t.outCount = 0#32 ∧ t.sinkOut = s.sinkOut ∧ t.sinkAnswers = rest ∧
      t.init.toNat = max 2 s.lDepth.toNat ∧ t.clear.toNat = 2 ^ t.init.toNat ∧ t.eofc.toNat = t.clear.toNat + 1 ∧
      t.n.toNat = s.lWidth.toNat * s.lHeight.toNat ∧
      t.width = s.width ∧ t.height = s.height ∧ t.depth = s.depth ∧ t.buflen = s.buflen ∧
      t.lWidth = s.lWidth ∧ t.lHeight = s.lHeight ∧ t.lDepth = s.lDepth ∧ t.lBuflen = s.lBuflen ∧
      (∀ a, t.pix.read a = s.pix.read a)

/-- R160: with no pixel at all START_OK and FINISH, applied one after the other, write INIT, one sub-block with CLEAR and EOFC at width
INIT+1, and the terminator. -/
def Obligations.EmptyStreamIsClearThenEof : Prop :=
  ∀ s : State, (s.lWidth.toNat = 0 ∨ s.lHeight.toNat = 0) → 1 ≤ s.lDepth.toNat → s.lDepth.toNat ≤ 8 → s.accepts 16 →
    ∃ t u, exec .startOk s = .next t ∧ exec .finish t = .next u ∧ t.entValid = false ∧ u.state = stDone ∧
      (let I := max 2 s.lDepth.toNat
       let data := lowBytes (2 ^ I + (2 ^ I + 1) * 2 ^ (I + 1)) ((2 * (I + 1) + 7) / 8)
       u.sinkOut = s.sinkOut ++ BitVec.ofNat 8 I :: BitVec.ofNat 8 data.length :: data ++ [0x00#8])

/-! ### The pixel steps, the clear and the end -/

/-- PIXEL_HIT (43_driver.md rule R154): ENT becomes the hit's code and CURSOR advances; nothing is emitted and nothing else changes (the
byte is read as NEXT_PIXEL reads it, log 10). -/
def Obligations.PixelHitExtendsTheSequence : Prop :=
  ∀ (s : State) (code : Code) (slot : Slot), s.cursor ≠ s.n →
    s.dictLookup s.ent (s.pixRead s.cursor.toNat).1 = .hit code slot →
    exec .pixelHit s = .next { s with
      cursor := s.cursor + 1#32
      ent := code
      draws := (s.pixRead s.cursor.toNat).2.draws }

/-- PIXEL_MISS_INSERT (43_driver.md rules R155, R162): the emission of the old ENT, made with FREE_ENT as it was, then ENT <- c, the key of (old
ENT, c) with code FREE_ENT in the slot of the miss, and FREE_ENT + 1. -/
def Obligations.PixelMissInsertEmitsThenInserts : Prop :=
  ∀ (s : State) (slot : Slot), s.cursor ≠ s.n → s.aCount.toNat ≤ 253 → s.accepts 512 →
    s.dictLookup s.ent (s.pixRead s.cursor.toNat).1 = .miss slot →
    ∃ u t, exec (.emit s.ent) s = .next u ∧ exec .pixelMissInsert s = .next t ∧
      u.state = s.state ∧ u.stuck = s.stuck ∧
      (∀ i, t.key i = if i = slot.toNat then some (fcodeOf s.ent (s.pixRead s.cursor.toNat).1) else s.key i) ∧
      (∀ i, t.codeAt i = if i = slot.toNat then s.freeEnt.setWidth 12 else s.codeAt i) ∧
      t = { u with
        cursor := s.cursor + 1#32
        ent := (s.pixRead s.cursor.toNat).1.setWidth 12
        freeEnt := s.freeEnt + 1#13
        ht := t.ht
        ct := t.ct
        draws := (s.pixRead s.cursor.toNat).2.draws }

/-- PIXEL_MISS_FULL (43_driver.md rule R156): the emission of the old ENT, then ENT <- c and STATE <- CLEARING; nothing is inserted. -/
def Obligations.PixelMissFullEmitsThenClears : Prop :=
  ∀ (s : State) (slot : Slot), s.cursor ≠ s.n → s.aCount.toNat ≤ 253 → s.accepts 512 →
    s.dictLookup s.ent (s.pixRead s.cursor.toNat).1 = .miss slot →
    ∃ u, exec (.emit s.ent) s = .next u ∧ u.state = s.state ∧ u.stuck = s.stuck ∧ u.freeEnt = s.freeEnt ∧
      exec .pixelMissFull s = .next { u with
        cursor := s.cursor + 1#32
        ent := (s.pixRead s.cursor.toNat).1.setWidth 12
        state := stClearing
        draws := (s.pixRead s.cursor.toNat).2.draws }

/-- CLEAR_BLOCK (43_driver.md rule R157): every slot EMPTY, FREE_ENT back to CLEAR + 2, CLEAR emitted at the old width, the width back to INIT+1
for the next code, STATE <- RUNNING; ENT, CURSOR and CT are kept. -/
def Obligations.ClearBlockRestartsTheDictionary : Prop :=
  ∀ s : State, s.aCount.toNat ≤ 253 → s.init.toNat ≤ 8 → s.accepts 512 →
    ∃ u t, exec (.emit (s.clear.setWidth 12)) { s with
        ht := Vector.replicate Config.hSize none
        freeEnt := BitVec.ofNat 13 (s.clear.toNat + 2)
        clearFlag := true } = .next u ∧
      u.state = s.state ∧ u.stuck = s.stuck ∧
      exec .clearBlock s = .next t ∧ t = { u with state := stRunning } ∧
      (∀ i, t.key i = none) ∧ t.freeEnt.toNat = s.clear.toNat + 2 ∧
      t.nBits.toNat = s.init.toNat + 1 ∧ t.maxCode.toNat = 2 ^ (s.init.toNat + 1) - 1 ∧ t.clearFlag = false ∧
      t.ent = s.ent ∧ t.entValid = s.entValid ∧ t.cursor = s.cursor ∧ (∀ i, t.codeAt i = s.codeAt i)

/-- FINISH (43_driver.md rule R158) where the sink accepts: the emission of ENT if ENT_VALID is set, then the emission of EOFC, then the terminator, and
STATE <- DONE. Every pending bit and byte has been written; only the packer's, the block's and the sink's fields change beside STATE. -/
def Obligations.FinishEndsTheOutput : Prop :=
  ∀ s : State, s.aCount.toNat ≤ 253 → s.accepts 512 →
    ∃ (u v t : State) (bs : List Byte),
      (if s.entValid then exec (.emit s.ent) s = .next u else u = s) ∧
      exec (.emit (s.eofc.setWidth 12)) u = .next v ∧
      exec .finish s = .next t ∧
      t = { v with
        state := stDone
        sinkOut := v.sinkOut ++ [0x00#8]
        outCount := v.outCount + 1#32
        sinkAnswers := v.sinkAnswers.drop 1 } ∧
      t.acc = 0#19 ∧ t.bits = 0#5 ∧ t.aCount = 0#8 ∧ t.clearFlag = false ∧
      t.sinkOut = s.sinkOut ++ bs ++ [0x00#8] ∧ t.outCount = s.outCount + BitVec.ofNat 32 (bs.length + 1) ∧
      t.sinkAnswers = s.sinkAnswers.drop (bs.length + 1) ∧
      t = { s with
        state := t.state, nBits := t.nBits, maxCode := t.maxCode, clearFlag := t.clearFlag, acc := t.acc, bits := t.bits,
        aCount := t.aCount, bb := t.bb, sinkOut := t.sinkOut, outCount := t.outCount, sinkAnswers := t.sinkAnswers }

/-! ### The Bit Packer and the Block Writer -/

/-- EMIT of a code other than EOFC (44_bit_packer.md rules R190 to R194): the code's N_BITS low bits go above the bits held, complete bytes go
to the block and, with the 254th, to the sink; then the width update. Nothing else changes. -/
def Obligations.EmitPacksTheCode : Prop :=
  ∀ (s : State) (code : Code), s.packed → s.aCount.toNat ≤ 253 → s.accepts 255 → code.toNat ≠ s.eofc.toNat →
    ∃ t, exec (.emit code) s = .next t ∧
      (let v := s.packedValue code
       let k := (s.bits.toNat + s.nBits.toNat) / 8
       let data := s.pendingBytes ++ lowBytes v k
       t.bits.toNat = (s.bits.toNat + s.nBits.toNat) % 8 ∧ t.acc.toNat = v / 256 ^ k ∧
       (if data.length < 254 then
          t.sinkOut = s.sinkOut ∧ t.outCount = s.outCount ∧ t.sinkAnswers = s.sinkAnswers ∧ t.pendingBytes = data
        else
          t.sinkOut = s.sinkOut ++ 0xFE#8 :: data.take 254 ∧ t.outCount = s.outCount + 255#32 ∧
          t.sinkAnswers = s.sinkAnswers.drop 255 ∧ t.pendingBytes = data.drop 254) ∧
       (∀ j, data.length ≤ j → t.blockByte j = s.blockByte j)) ∧
      (if s.clearFlag then t.nBits = BitVec.ofNat 4 (s.init.toNat + 1)
       else if s.maxCode.toNat < s.freeEnt.toNat ∧ s.nBits.toNat < 12 then t.nBits.toNat = s.nBits.toNat + 1
       else t.nBits = s.nBits) ∧
      (if s.clearFlag ∨ (s.maxCode.toNat < s.freeEnt.toNat ∧ s.nBits.toNat < 12)
       then t.maxCode = BitVec.ofNat 12 (2 ^ t.nBits.toNat - 1) else t.maxCode = s.maxCode) ∧
      t.clearFlag = false ∧
      t = { s with
        nBits := t.nBits, maxCode := t.maxCode, clearFlag := t.clearFlag, acc := t.acc, bits := t.bits,
        aCount := t.aCount, bb := t.bb, sinkOut := t.sinkOut, outCount := t.outCount, sinkAnswers := t.sinkAnswers }

/-- EMIT of EOFC (44_bit_packer.md rules R190, R195): the width update as for every code, then the partial byte goes out zero-padded and every
pending byte is written; nothing stays pending. -/
def Obligations.EmitOfEofFlushesEverything : Prop :=
  ∀ (s : State) (code : Code), s.packed → s.aCount.toNat ≤ 253 → s.accepts 512 → code.toNat = s.eofc.toNat →
    ∃ t, exec (.emit code) s = .next t ∧
      (let data := s.pendingBytes ++ lowBytes (s.packedValue code) ((s.bits.toNat + s.nBits.toNat + 7) / 8)
       let out := framed data
       t.acc = 0#19 ∧ t.bits = 0#5 ∧ t.aCount = 0#8 ∧
       t.sinkOut = s.sinkOut ++ out ∧ t.outCount = s.outCount + BitVec.ofNat 32 out.length ∧
       t.sinkAnswers = s.sinkAnswers.drop out.length ∧
       (∀ j, data.length ≤ j → t.blockByte j = s.blockByte j)) ∧
      (if s.clearFlag then t.nBits = BitVec.ofNat 4 (s.init.toNat + 1)
       else if s.maxCode.toNat < s.freeEnt.toNat ∧ s.nBits.toNat < 12 then t.nBits.toNat = s.nBits.toNat + 1
       else t.nBits = s.nBits) ∧
      (if s.clearFlag ∨ (s.maxCode.toNat < s.freeEnt.toNat ∧ s.nBits.toNat < 12)
       then t.maxCode = BitVec.ofNat 12 (2 ^ t.nBits.toNat - 1) else t.maxCode = s.maxCode) ∧
      t.clearFlag = false ∧
      t = { s with
        nBits := t.nBits, maxCode := t.maxCode, clearFlag := t.clearFlag, acc := t.acc, bits := t.bits,
        aCount := t.aCount, bb := t.bb, sinkOut := t.sinkOut, outCount := t.outCount, sinkAnswers := t.sinkAnswers }

/-- BYTE_OUT (45_block_writer.md rule R210): the byte joins the block, whose other entries are kept; the 254th byte makes the block go to the
sink at once. -/
def Obligations.ByteOutFillsTheBlock : Prop :=
  ∀ (s : State) (b : Byte), s.aCount.toNat ≤ 253 → (s.aCount.toNat = 253 → s.accepts 255) →
    ∃ t, exec (.byteOut b) s = .next t ∧
      (∀ j, j ≠ s.aCount.toNat → t.blockByte j = s.blockByte j) ∧ t.blockByte s.aCount.toNat = b ∧
      (if s.aCount.toNat < 253 then
        t.aCount.toNat = s.aCount.toNat + 1 ∧ t = { s with bb := t.bb, aCount := t.aCount }
       else
        t.aCount = 0#8 ∧ t.sinkOut = s.sinkOut ++ 0xFE#8 :: s.pendingBytes ++ [b] ∧
        t.outCount = s.outCount + 255#32 ∧ t.sinkAnswers = s.sinkAnswers.drop 255 ∧
        t = { s with bb := t.bb, aCount := t.aCount, sinkOut := t.sinkOut, outCount := t.outCount, sinkAnswers := t.sinkAnswers })

/-- BLOCK_FLUSH (45_block_writer.md rule R211) where the sink accepts: the length byte and the data bytes in arrival order, or nothing when the
block is empty. -/
def Obligations.BlockFlushWritesLengthAndData : Prop :=
  ∀ s : State, s.aCount.toNat ≤ 254 → s.accepts (s.aCount.toNat + 1) →
    exec .blockFlush s = .next (
      if s.aCount.toNat = 0 then s
      else { s with
        sinkOut := s.sinkOut ++ s.aCount :: (List.range s.aCount.toNat).map s.blockByte
        outCount := s.outCount + BitVec.ofNat 32 (s.aCount.toNat + 1)
        sinkAnswers := s.sinkAnswers.drop (s.aCount.toNat + 1)
        aCount := 0#8 })

/-- BLOCK_FLUSH that the sink fails at its byte k (45_block_writer.md rule R211, 60_exceptions.md rules R244 and R248): exactly the k bytes before
it are output, and nothing after it. -/
def Obligations.BlockFlushStopsAtTheFailedByte : Prop :=
  ∀ (s : State) (k : Nat) (rest : List SinkAnswer), 0 < s.aCount.toNat → s.aCount.toNat ≤ 254 → k ≤ s.aCount.toNat →
    s.sinkAnswers = List.replicate k .accept ++ .fail :: rest →
    ∃ t, exec .blockFlush s = .next t ∧
      t.sinkOut = s.sinkOut ++ (s.aCount :: (List.range s.aCount.toNat).map s.blockByte).take k ∧
      t.outCount = s.outCount + BitVec.ofNat 32 k ∧ t.sinkAnswers = rest ∧
      t.state = stError ∧ t.errCode = errSinkFailure ∧ t.reason = 0#4 ∧ t.startReq = false ∧
      t.init = s.init ∧ t.clear = s.clear ∧ t.eofc = s.eofc ∧ t.n = s.n

/-- SINK_WRITE, HEADER_OUT and TERMINATOR_OUT (45_block_writer.md rules R216, R212, R213) where the sink accepts. -/
def Obligations.AcceptedByteIsOutputAndCounted : Prop :=
  ∀ (s : State) (rest : List SinkAnswer), s.sinkAnswers = .accept :: rest →
    (∀ b, exec (.sinkWrite b) s = .next { s with
      sinkOut := s.sinkOut ++ [b], outCount := s.outCount + 1#32, sinkAnswers := rest }) ∧
    (∀ init, exec (.headerOut init) s = .next { s with
      sinkOut := s.sinkOut ++ [init.zeroExtend 8], outCount := s.outCount + 1#32, sinkAnswers := rest }) ∧
    exec .terminatorOut s = .next { s with
      sinkOut := s.sinkOut ++ [0x00#8], outCount := s.outCount + 1#32, sinkAnswers := rest }

/-- SINK_WRITE, HEADER_OUT and TERMINATOR_OUT where the sink answers FAIL (60_exceptions.md rules R243, R244): the byte is not output, and the
configuration, the latched values, the run constants, OUTCOUNT and PIX are kept. -/
def Obligations.FailedByteRaisesSinkFailure : Prop :=
  ∀ (s : State) (rest : List SinkAnswer) (i : Instr), s.sinkAnswers = .fail :: rest →
    ((∃ b, i = .sinkWrite b) ∨ (∃ init, i = .headerOut init) ∨ i = .terminatorOut) →
    ∃ t, exec i s = .next t ∧
      t.state = stError ∧ t.errCode = errSinkFailure ∧ t.reason = 0#4 ∧ t.startReq = false ∧
      t.outCount = s.outCount ∧ t.sinkOut = s.sinkOut ∧ t.sinkAnswers = rest ∧
      t.width = s.width ∧ t.height = s.height ∧ t.depth = s.depth ∧ t.buflen = s.buflen ∧
      t.lWidth = s.lWidth ∧ t.lHeight = s.lHeight ∧ t.lDepth = s.lDepth ∧ t.lBuflen = s.lBuflen ∧
      t.init = s.init ∧ t.clear = s.clear ∧ t.eofc = s.eofc ∧ t.n = s.n ∧
      (∀ a, t.pix.read a = s.pix.read a)

/-- SINK_WRITE by the sink's answer (45_block_writer.md rule R216), which is the environment's next one or, past the end of its list, a free value
(log 4): ACCEPT outputs and counts the byte, FAIL raises SinkFailure (60_exceptions.md rule R244), and no answer leaves the engine inside
the step, waiting with this byte, its registers as they were (log 5). -/
def Obligations.EverySinkAnswerHasItsOutcome : Prop :=
  ∀ (s : State) (b : Byte),
    (∀ a rest, s.sinkAnswers = a :: rest → s.takeAnswer = (a, { s with sinkAnswers := rest })) ∧
    (s.sinkAnswers = [] → s.takeAnswer = (Config.sinkAnswer s.draws, { s with draws := s.draws + 1 })) ∧
    (s.takeAnswer.1 = .accept →
      exec (.sinkWrite b) s = .next { s.takeAnswer.2 with sinkOut := s.sinkOut ++ [b], outCount := s.outCount + 1#32 }) ∧
    (s.takeAnswer.1 = .fail → ∃ t, exec (.sinkWrite b) s = .next t ∧
      t.state = stError ∧ t.errCode = errSinkFailure ∧ t.reason = 0#4 ∧ t.startReq = false ∧
      t.sinkOut = s.sinkOut ∧ t.outCount = s.outCount ∧ t.stuck = s.stuck ∧ t.sinkAnswers = s.takeAnswer.2.sinkAnswers) ∧
    (s.takeAnswer.1 = .silent → exec (.sinkWrite b) s = .next { s.takeAnswer.2 with stuck := some (.sink b) })

/-! ### The Pixel Source and the Code Dictionary -/

/-- NEXT_PIXEL (41_pixel_source.md rule R120): the pixel at CURSOR, and CURSOR + 1; at the end of the stream nothing changes, however often it
is called. A byte the host wrote during the run is a free value, drawn at each read (R75; log 10). -/
def Obligations.NextPixelReadsInOrder : Prop :=
  ∀ s : State,
    (s.cursor = s.n → exec .nextPixel s = .next { s with result := .pixel true 0#8 }) ∧
    (s.cursor ≠ s.n → s.cursor.toNat ∉ s.pixDirty →
      exec .nextPixel s = .next { s with
        cursor := s.cursor + 1#32, result := .pixel false (s.pix.read s.cursor.toNat) }) ∧
    (s.cursor ≠ s.n → s.cursor.toNat ∈ s.pixDirty →
      ∃ c, exec .nextPixel s = .next { s with
        cursor := s.cursor + 1#32, draws := s.draws + 1, result := .pixel false c })

/-- DICT_CLEAR (42_dictionary.md rule R130): every slot EMPTY; CT and everything else as before. -/
def Obligations.DictClearEmptiesEverySlot : Prop :=
  ∀ s : State, ∃ t, exec .dictClear s = .next t ∧
    (∀ i, t.key i = none) ∧ (∀ i, t.codeAt i = s.codeAt i) ∧ t = { s with ht := t.ht }

/-- R96, R97: DICT_HASH gives the composite key and the primary slot and writes no state (`result` shows what it returns, log 17). -/
def Obligations.DictHashGivesKeyAndPrimarySlot : Prop :=
  ∀ (s : State) (ent : Code) (c : Byte), ∃ (k : Key) (i : Slot),
    exec (.dictHash ent c) s = .next { s with result := .hash k i } ∧
    k = c ++ ent ∧ k.toNat = c.toNat * 2 ^ 12 + ent.toNat ∧ (k = 0#20 ↔ ent = 0#12 ∧ c = 0#8) ∧ some k ≠ none ∧
    i = (((c ++ 0b0000#4 : BitVec 12) ^^^ ent).zeroExtend 13) ∧ i.toNat < 4096

/-- R96, R131: the key of a pair is its pixel and its prefix side by side, FCODE = (c << 12) + ent; two different pairs never share a key;
the key is 0 for the pair (0, 0) only, and it is never the EMPTY of a slot. -/
def Obligations.CompositeKeyIsOneToOne : Prop :=
  ∀ (ent ent' : Code) (c c' : Byte),
    fcodeOf ent c = c ++ ent ∧ (fcodeOf ent c).toNat = c.toNat * 2 ^ 12 + ent.toNat ∧
    (fcodeOf ent c = fcodeOf ent' c' → ent = ent' ∧ c = c') ∧
    (fcodeOf ent c = 0#20 ↔ ent = 0#12 ∧ c = 0#8) ∧ some (fcodeOf ent c) ≠ none

/-- DICT_LOOKUP (42_dictionary.md rule R133) of a table with an EMPTY slot ends and writes no state of the engine. Its slot is the first of the
probe, from the primary slot on, that is EMPTY or holds the pair's key: a hit where it holds the key, with that slot's code, and a
miss where it is EMPTY. So a key in the primary slot is a hit there, and an EMPTY primary slot is the miss itself. -/
def Obligations.DictLookupAnswersTruly : Prop :=
  ∀ (s : State) (ent : Code) (c : Byte), (∃ i, i < 5003 ∧ s.key i = none) →
    ∃ (hit : Bool) (code : Code) (slot : Slot),
      exec (.dictLookup ent c) s = .next { s with result := .lookup hit code slot (fcodeOf ent c) } ∧
      slot.toNat < 5003 ∧
      (hit = true → s.key slot.toNat = some (fcodeOf ent c) ∧ code = s.codeAt slot.toNat) ∧
      (hit = false → s.key slot.toNat = none ∧ code = 0#12) ∧
      (let i0 := (primarySlot ent c).toNat
       (∃ k, (probeNext (displacement i0))^[k] i0 = slot.toNat ∧
         ∀ m, m < k → s.key ((probeNext (displacement i0))^[m] i0) ≠ none ∧
           s.key ((probeNext (displacement i0))^[m] i0) ≠ some (fcodeOf ent c)) ∧
       (s.key i0 = some (fcodeOf ent c) → hit = true ∧ slot = primarySlot ent c) ∧
       (s.key i0 = none → hit = false ∧ slot = primarySlot ent c))

/-- R134: the k-th index of a probe is ((k+1) · i0) mod 5003, or 5003 - k from slot 0, and the first 5003 of them are all the slots, so that
a lookup of a table with fewer than 5003 keys ends. -/
def Obligations.ProbeVisitsEverySlot : Prop :=
  (∀ i0 k : Nat, i0 < 5003 →
    (probeNext (displacement i0))^[k] i0 = if i0 = 0 then (5003 - k % 5003) % 5003 else ((k + 1) * i0) % 5003) ∧
  (∀ i0 j : Nat, i0 < 5003 → j < 5003 → ∃ k, k < 5003 ∧ (probeNext (displacement i0))^[k] i0 = j) ∧
  (∀ (s : State) (ent : Code) (c : Byte), s.occupied < 5003 → s.dictLookup ent c ≠ .endless)

/-- DICT_INSERT (42_dictionary.md rule R136) writes key and code of one slot; every other slot and everything else is as before. A slot the
table does not have is a fault of the model (log 24). -/
def Obligations.DictInsertWritesOneSlot : Prop :=
  ∀ (s : State) (slot : Slot) (fcode : Key) (code : Code),
    (slot.toNat < 5003 → ∃ t, exec (.dictInsert slot fcode code) s = .next t ∧
      (∀ i, t.key i = if i = slot.toNat then some fcode else s.key i) ∧
      (∀ i, t.codeAt i = if i = slot.toNat then code else s.codeAt i) ∧
      t = { s with ht := t.ht, ct := t.ct }) ∧
    (5003 ≤ slot.toNat → exec (.dictInsert slot fcode code) s = .fault .noSuchSlot)

/-- A pair inserted in the slot of its miss is found there with its code (42_dictionary.md rules R133, R136). -/
def Obligations.LookupFindsWhatWasInserted : Prop :=
  ∀ (s t : State) (ent : Code) (c : Byte) (slot : Slot) (code : Code),
    s.dictLookup ent c = .miss slot → exec (.dictInsert slot (fcodeOf ent c) code) s = .next t →
    t.dictLookup ent c = .hit code slot

/-- An insertion in the slot of a miss changes the answer to no other pair's lookup that hit, and no other pair is found that was not
stored (42_dictionary.md rule R135). -/
def Obligations.InsertionDisturbsNoOtherLookup : Prop :=
  ∀ (s t : State) (ent ent' : Code) (c c' : Byte) (slot : Slot) (code : Code),
    s.dictLookup ent c = .miss slot → exec (.dictInsert slot (fcodeOf ent c) code) s = .next t →
    ¬(ent' = ent ∧ c' = c) →
    (∀ code' slot', s.dictLookup ent' c' = .hit code' slot' → t.dictLookup ent' c' = .hit code' slot') ∧
    (∀ slot', s.dictLookup ent' c' = .miss slot' → (∀ j, s.key j ≠ some (fcodeOf ent' c')) →
      ∀ code' slot'', t.dictLookup ent' c' ≠ .hit code' slot'')

/-! ### The whole machine -/

/-- No operation writes PIX (20_memory.md rule R62). -/
def Obligations.OperationsNeverWritePix : Prop :=
  ∀ (i : Instr) (s t : State), exec i s = .next t → ∀ a, t.pix.read a = s.pix.read a

/-- No step takes back a byte the sink accepted, or reorders the bytes (20_memory.md rules R65, R71, R74). -/
def Obligations.AcceptedBytesAreNeverTakenBack : Prop :=
  ∀ s t : State, step s = .next t → ∃ bs, t.sinkOut = s.sinkOut ++ bs

/-- The host's registers change only by a host write or RESET, and the latched configuration only by START or RESET (10_state.md rule R23,
70_reset_and_hazards.md rules R273, R279). -/
def Obligations.ConfigurationChangesOnlyByTheHost : Prop :=
  ∀ (i : Instr) (s t : State), exec i s = .next t → i ≠ .reset →
    ((∀ idx wdata, i ≠ .csrWrite idx wdata) →
      t.width = s.width ∧ t.height = s.height ∧ t.depth = s.depth ∧ t.buflen = s.buflen) ∧
    ((∀ wdata, i ≠ .csrWrite 0#4 wdata) →
      t.lWidth = s.lWidth ∧ t.lHeight = s.lHeight ∧ t.lDepth = s.lDepth ∧ t.lBuflen = s.lBuflen)

/-- INIT, CLEAR, EOFC and N change only by START_OK or RESET (10_state.md rules R24, R25; 60_exceptions.md rule R244). -/
def Obligations.RunConstantsChangeOnlyAtStartOk : Prop :=
  ∀ (i : Instr) (s t : State), exec i s = .next t → i ≠ .startOk → i ≠ .reset →
    t.init = s.init ∧ t.clear = s.clear ∧ t.eofc = s.eofc ∧ t.n = s.n

/-- HT is changed only by the operations that clear or insert, and CT only by those that insert (42_dictionary.md rule R138), except where the
operation raises SinkFailure, which leaves both open (60_exceptions.md rule R244), or is RESET (70_reset_and_hazards.md rule R270). That the operation
raises no SinkFailure is said by running it with ERRCODE 0: it then leaves ERRCODE other than 2. So nothing is asked of the ERRCODE an
earlier operation left. -/
def Obligations.OnlyDictionaryOperationsChangeTheTables : Prop :=
  ∀ (i : Instr) (s t u : State), exec i s = .next t → i ≠ .reset →
    exec i { s with errCode := 0#4 } = .next u → u.errCode ≠ errSinkFailure →
    (i ≠ .startOk → i ≠ .clearBlock → i ≠ .pixelMissInsert → i ≠ .dictClear →
      (∀ slot k code, i ≠ .dictInsert slot k code) → ∀ j, t.key j = s.key j) ∧
    (i ≠ .pixelMissInsert → (∀ slot k code, i ≠ .dictInsert slot k code) → ∀ j, t.codeAt j = s.codeAt j)

/-- OUTCOUNT counts the bytes the sink accepts (10_state.md rule R34, 45_block_writer.md rule R217), also where the operation ends in a SinkFailure:
every operation but START_INVALID and RESET adds the bytes it outputs, START_OK starting from 0. A step that does not end is left out (log 5). -/
def Obligations.OutcountCountsAcceptedBytes : Prop :=
  ∀ (i : Instr) (s t : State), exec i s = .next t → i ≠ .startInvalid → i ≠ .reset → t.stuck = none →
    ∃ bs, t.sinkOut = s.sinkOut ++ bs ∧
      t.outCount = (if i = .startOk then 0#32 else s.outCount) + BitVec.ofNat 32 bs.length

/-- R161: how STATE changes in one step, from every state, as long as no primitive is called by itself (log 2). -/
def Obligations.StateChangesAsTheTableSays : Prop :=
  ∀ s t : State, step s = .next t → (∀ call rest, s.inputs ≠ .primitive call :: rest) →
    t.state = s.state ∨
    (t.state = stIdle ∧ ∃ rest, s.inputs = .reset :: rest) ∨
    (s.startReq = true ∧ t.startReq = false ∧ (t.state = stRunning ∨ t.state = stError)) ∨
    (s.state = stRunning ∧ (t.state = stClearing ∨ t.state = stDone ∨ t.state = stError)) ∨
    (s.state = stClearing ∧ (t.state = stRunning ∨ t.state = stError))

/-- The machine's invariant (10_state.md rules R21, R22, R35, R36) is kept by every step. -/
def Obligations.EveryStepKeepsTheInvariant : Prop :=
  ∀ s t : State, s.Inv → step s = .next t → t.Inv

/-- The three invariants hold after reset (of no run they say nothing). -/
def Obligations.ResetMeetsTheInvariants : Prop :=
  State.reset.Inv ∧ State.reset.OutputInv ∧ State.reset.DictInv

/-- From a state that meets the invariant the machine never stops: every step answers a next state. -/
def Obligations.GoodStatesNeverStop : Prop :=
  ∀ s : State, s.Inv → ∃ t, step s = .next t

/-- R93, R214: between any two steps the sink holds, of the run, INIT and whole sub-blocks of 1 to 254 bytes, and in DONE at least one of them
and the terminator. -/
def Obligations.EveryStepKeepsTheOutputForm : Prop :=
  ∀ s t : State, s.Inv → s.OutputInv → step s = .next t → t.OutputInv

/-- R137: during a run every stored pair is found in its slot, and its code is one allocated since the last clear and no other pair's. -/
def Obligations.EveryStepKeepsTheDictionarySound : Prop :=
  ∀ s t : State, s.Inv → s.DictInv → step s = .next t → t.DictInv

/-- START_OK does not depend on what an earlier run, a failed one or reset left behind (70_reset_and_hazards.md rule R272): from states that differ
in the working registers and the private memories only, it leaves states that differ in stale data only. -/
def Obligations.StartOkForgetsEarlierRuns : Prop :=
  ∀ s w t t' : State,
    exec .startOk s = .next t → t.stuck = none →
    exec .startOk { s with
      init := w.init, clear := w.clear, eofc := w.eofc, n := w.n, cursor := w.cursor, ent := w.ent, entValid := w.entValid,
      nBits := w.nBits, maxCode := w.maxCode, freeEnt := w.freeEnt, clearFlag := w.clearFlag, acc := w.acc, bits := w.bits,
      aCount := w.aCount, outCount := w.outCount, errCode := w.errCode, reason := w.reason, ht := w.ht, ct := w.ct,
      bb := w.bb } = .next t' →
    t' = { t with ct := t'.ct, bb := t'.bb } ∧ t'.pendingBytes = t.pendingBytes

/-- A run whose sink accepts every byte reaches DONE with every pixel read, in at most two steps for each pixel to come, one for a clear to come
and one for FINISH (an upper bound of the count of 43_driver.md rule R163). -/
def Obligations.AcceptedRunReachesDone : Prop :=
  ∀ s : State, s.Inv → s.inRun → s.inputs = [] → s.stuck = none → s.accepts (512 * (s.remaining + 1)) →
    ∃ k t, k ≤ s.remaining + 1 ∧ core.run k s = .next t ∧ t.state = stDone ∧ t.cursor = t.n
end

