-- ==== Sys2Proof/Laws/State.lean ====
section
/-! SUPPORT. Each field after each named update of the state, true by unfolding. -/

namespace Sys2Proof.Machine

@[simp] theorem State.dictClear_state (s : State) : s.dictClear.state = s.state := rfl
@[simp] theorem State.dictClear_startReq (s : State) : s.dictClear.startReq = s.startReq := rfl
@[simp] theorem State.dictClear_width (s : State) : s.dictClear.width = s.width := rfl
@[simp] theorem State.dictClear_height (s : State) : s.dictClear.height = s.height := rfl
@[simp] theorem State.dictClear_depth (s : State) : s.dictClear.depth = s.depth := rfl
@[simp] theorem State.dictClear_buflen (s : State) : s.dictClear.buflen = s.buflen := rfl
@[simp] theorem State.dictClear_lWidth (s : State) : s.dictClear.lWidth = s.lWidth := rfl
@[simp] theorem State.dictClear_lHeight (s : State) : s.dictClear.lHeight = s.lHeight := rfl
@[simp] theorem State.dictClear_lDepth (s : State) : s.dictClear.lDepth = s.lDepth := rfl
@[simp] theorem State.dictClear_lBuflen (s : State) : s.dictClear.lBuflen = s.lBuflen := rfl
@[simp] theorem State.dictClear_init (s : State) : s.dictClear.init = s.init := rfl
@[simp] theorem State.dictClear_clear (s : State) : s.dictClear.clear = s.clear := rfl
@[simp] theorem State.dictClear_eofc (s : State) : s.dictClear.eofc = s.eofc := rfl
@[simp] theorem State.dictClear_n (s : State) : s.dictClear.n = s.n := rfl
@[simp] theorem State.dictClear_cursor (s : State) : s.dictClear.cursor = s.cursor := rfl
@[simp] theorem State.dictClear_ent (s : State) : s.dictClear.ent = s.ent := rfl
@[simp] theorem State.dictClear_entValid (s : State) : s.dictClear.entValid = s.entValid := rfl
@[simp] theorem State.dictClear_nBits (s : State) : s.dictClear.nBits = s.nBits := rfl
@[simp] theorem State.dictClear_maxCode (s : State) : s.dictClear.maxCode = s.maxCode := rfl
@[simp] theorem State.dictClear_freeEnt (s : State) : s.dictClear.freeEnt = s.freeEnt := rfl
@[simp] theorem State.dictClear_clearFlag (s : State) : s.dictClear.clearFlag = s.clearFlag := rfl
@[simp] theorem State.dictClear_acc (s : State) : s.dictClear.acc = s.acc := rfl
@[simp] theorem State.dictClear_bits (s : State) : s.dictClear.bits = s.bits := rfl
@[simp] theorem State.dictClear_aCount (s : State) : s.dictClear.aCount = s.aCount := rfl
@[simp] theorem State.dictClear_outCount (s : State) : s.dictClear.outCount = s.outCount := rfl
@[simp] theorem State.dictClear_errCode (s : State) : s.dictClear.errCode = s.errCode := rfl
@[simp] theorem State.dictClear_reason (s : State) : s.dictClear.reason = s.reason := rfl
@[simp] theorem State.dictClear_ht (s : State) : s.dictClear.ht = Vector.replicate Config.hSize none := rfl
@[simp] theorem State.dictClear_ct (s : State) : s.dictClear.ct = s.ct := rfl
@[simp] theorem State.dictClear_bb (s : State) : s.dictClear.bb = s.bb := rfl
@[simp] theorem State.dictClear_pix (s : State) : s.dictClear.pix = s.pix := rfl
@[simp] theorem State.dictClear_sinkOut (s : State) : s.dictClear.sinkOut = s.sinkOut := rfl
@[simp] theorem State.dictClear_pixDirty (s : State) : s.dictClear.pixDirty = s.pixDirty := rfl
@[simp] theorem State.dictClear_sinkAnswers (s : State) : s.dictClear.sinkAnswers = s.sinkAnswers := rfl
@[simp] theorem State.dictClear_inputs (s : State) : s.dictClear.inputs = s.inputs := rfl
@[simp] theorem State.dictClear_rdata (s : State) : s.dictClear.rdata = s.rdata := rfl
@[simp] theorem State.dictClear_result (s : State) : s.dictClear.result = s.result := rfl
@[simp] theorem State.dictClear_stuck (s : State) : s.dictClear.stuck = s.stuck := rfl
@[simp] theorem State.dictClear_draws (s : State) : s.dictClear.draws = s.draws := rfl

@[simp] theorem State.dictInsert_state (s : State) (i : Nat) (k : Key) (c : Code) : (s.dictInsert i k c).state = s.state := rfl
@[simp] theorem State.dictInsert_startReq (s : State) (i : Nat) (k : Key) (c : Code) : (s.dictInsert i k c).startReq = s.startReq := rfl
@[simp] theorem State.dictInsert_width (s : State) (i : Nat) (k : Key) (c : Code) : (s.dictInsert i k c).width = s.width := rfl
@[simp] theorem State.dictInsert_height (s : State) (i : Nat) (k : Key) (c : Code) : (s.dictInsert i k c).height = s.height := rfl
@[simp] theorem State.dictInsert_depth (s : State) (i : Nat) (k : Key) (c : Code) : (s.dictInsert i k c).depth = s.depth := rfl
@[simp] theorem State.dictInsert_buflen (s : State) (i : Nat) (k : Key) (c : Code) : (s.dictInsert i k c).buflen = s.buflen := rfl
@[simp] theorem State.dictInsert_lWidth (s : State) (i : Nat) (k : Key) (c : Code) : (s.dictInsert i k c).lWidth = s.lWidth := rfl
@[simp] theorem State.dictInsert_lHeight (s : State) (i : Nat) (k : Key) (c : Code) : (s.dictInsert i k c).lHeight = s.lHeight := rfl
@[simp] theorem State.dictInsert_lDepth (s : State) (i : Nat) (k : Key) (c : Code) : (s.dictInsert i k c).lDepth = s.lDepth := rfl
@[simp] theorem State.dictInsert_lBuflen (s : State) (i : Nat) (k : Key) (c : Code) : (s.dictInsert i k c).lBuflen = s.lBuflen := rfl
@[simp] theorem State.dictInsert_init (s : State) (i : Nat) (k : Key) (c : Code) : (s.dictInsert i k c).init = s.init := rfl
@[simp] theorem State.dictInsert_clear (s : State) (i : Nat) (k : Key) (c : Code) : (s.dictInsert i k c).clear = s.clear := rfl
@[simp] theorem State.dictInsert_eofc (s : State) (i : Nat) (k : Key) (c : Code) : (s.dictInsert i k c).eofc = s.eofc := rfl
@[simp] theorem State.dictInsert_n (s : State) (i : Nat) (k : Key) (c : Code) : (s.dictInsert i k c).n = s.n := rfl
@[simp] theorem State.dictInsert_cursor (s : State) (i : Nat) (k : Key) (c : Code) : (s.dictInsert i k c).cursor = s.cursor := rfl
@[simp] theorem State.dictInsert_ent (s : State) (i : Nat) (k : Key) (c : Code) : (s.dictInsert i k c).ent = s.ent := rfl
@[simp] theorem State.dictInsert_entValid (s : State) (i : Nat) (k : Key) (c : Code) : (s.dictInsert i k c).entValid = s.entValid := rfl
@[simp] theorem State.dictInsert_nBits (s : State) (i : Nat) (k : Key) (c : Code) : (s.dictInsert i k c).nBits = s.nBits := rfl
@[simp] theorem State.dictInsert_maxCode (s : State) (i : Nat) (k : Key) (c : Code) : (s.dictInsert i k c).maxCode = s.maxCode := rfl
@[simp] theorem State.dictInsert_freeEnt (s : State) (i : Nat) (k : Key) (c : Code) : (s.dictInsert i k c).freeEnt = s.freeEnt := rfl
@[simp] theorem State.dictInsert_clearFlag (s : State) (i : Nat) (k : Key) (c : Code) : (s.dictInsert i k c).clearFlag = s.clearFlag := rfl
@[simp] theorem State.dictInsert_acc (s : State) (i : Nat) (k : Key) (c : Code) : (s.dictInsert i k c).acc = s.acc := rfl
@[simp] theorem State.dictInsert_bits (s : State) (i : Nat) (k : Key) (c : Code) : (s.dictInsert i k c).bits = s.bits := rfl
@[simp] theorem State.dictInsert_aCount (s : State) (i : Nat) (k : Key) (c : Code) : (s.dictInsert i k c).aCount = s.aCount := rfl
@[simp] theorem State.dictInsert_outCount (s : State) (i : Nat) (k : Key) (c : Code) : (s.dictInsert i k c).outCount = s.outCount := rfl
@[simp] theorem State.dictInsert_errCode (s : State) (i : Nat) (k : Key) (c : Code) : (s.dictInsert i k c).errCode = s.errCode := rfl
@[simp] theorem State.dictInsert_reason (s : State) (i : Nat) (k : Key) (c : Code) : (s.dictInsert i k c).reason = s.reason := rfl
@[simp] theorem State.dictInsert_ht (s : State) (i : Nat) (k : Key) (c : Code) : (s.dictInsert i k c).ht = putAt s.ht i (some k) := rfl
@[simp] theorem State.dictInsert_ct (s : State) (i : Nat) (k : Key) (c : Code) : (s.dictInsert i k c).ct = putAt s.ct i c := rfl
@[simp] theorem State.dictInsert_bb (s : State) (i : Nat) (k : Key) (c : Code) : (s.dictInsert i k c).bb = s.bb := rfl
@[simp] theorem State.dictInsert_pix (s : State) (i : Nat) (k : Key) (c : Code) : (s.dictInsert i k c).pix = s.pix := rfl
@[simp] theorem State.dictInsert_sinkOut (s : State) (i : Nat) (k : Key) (c : Code) : (s.dictInsert i k c).sinkOut = s.sinkOut := rfl
@[simp] theorem State.dictInsert_pixDirty (s : State) (i : Nat) (k : Key) (c : Code) : (s.dictInsert i k c).pixDirty = s.pixDirty := rfl
@[simp] theorem State.dictInsert_sinkAnswers (s : State) (i : Nat) (k : Key) (c : Code) : (s.dictInsert i k c).sinkAnswers = s.sinkAnswers := rfl
@[simp] theorem State.dictInsert_inputs (s : State) (i : Nat) (k : Key) (c : Code) : (s.dictInsert i k c).inputs = s.inputs := rfl
@[simp] theorem State.dictInsert_rdata (s : State) (i : Nat) (k : Key) (c : Code) : (s.dictInsert i k c).rdata = s.rdata := rfl
@[simp] theorem State.dictInsert_result (s : State) (i : Nat) (k : Key) (c : Code) : (s.dictInsert i k c).result = s.result := rfl
@[simp] theorem State.dictInsert_stuck (s : State) (i : Nat) (k : Key) (c : Code) : (s.dictInsert i k c).stuck = s.stuck := rfl
@[simp] theorem State.dictInsert_draws (s : State) (i : Nat) (k : Key) (c : Code) : (s.dictInsert i k c).draws = s.draws := rfl

@[simp] theorem State.enterStuck_state (s u : State) (w : Stuck) : (s.enterStuck u w).state = s.state := rfl
@[simp] theorem State.enterStuck_startReq (s u : State) (w : Stuck) : (s.enterStuck u w).startReq = s.startReq := rfl
@[simp] theorem State.enterStuck_width (s u : State) (w : Stuck) : (s.enterStuck u w).width = s.width := rfl
@[simp] theorem State.enterStuck_height (s u : State) (w : Stuck) : (s.enterStuck u w).height = s.height := rfl
@[simp] theorem State.enterStuck_depth (s u : State) (w : Stuck) : (s.enterStuck u w).depth = s.depth := rfl
@[simp] theorem State.enterStuck_buflen (s u : State) (w : Stuck) : (s.enterStuck u w).buflen = s.buflen := rfl
@[simp] theorem State.enterStuck_lWidth (s u : State) (w : Stuck) : (s.enterStuck u w).lWidth = s.lWidth := rfl
@[simp] theorem State.enterStuck_lHeight (s u : State) (w : Stuck) : (s.enterStuck u w).lHeight = s.lHeight := rfl
@[simp] theorem State.enterStuck_lDepth (s u : State) (w : Stuck) : (s.enterStuck u w).lDepth = s.lDepth := rfl
@[simp] theorem State.enterStuck_lBuflen (s u : State) (w : Stuck) : (s.enterStuck u w).lBuflen = s.lBuflen := rfl
@[simp] theorem State.enterStuck_init (s u : State) (w : Stuck) : (s.enterStuck u w).init = s.init := rfl
@[simp] theorem State.enterStuck_clear (s u : State) (w : Stuck) : (s.enterStuck u w).clear = s.clear := rfl
@[simp] theorem State.enterStuck_eofc (s u : State) (w : Stuck) : (s.enterStuck u w).eofc = s.eofc := rfl
@[simp] theorem State.enterStuck_n (s u : State) (w : Stuck) : (s.enterStuck u w).n = s.n := rfl
@[simp] theorem State.enterStuck_cursor (s u : State) (w : Stuck) : (s.enterStuck u w).cursor = s.cursor := rfl
@[simp] theorem State.enterStuck_ent (s u : State) (w : Stuck) : (s.enterStuck u w).ent = s.ent := rfl
@[simp] theorem State.enterStuck_entValid (s u : State) (w : Stuck) : (s.enterStuck u w).entValid = s.entValid := rfl
@[simp] theorem State.enterStuck_nBits (s u : State) (w : Stuck) : (s.enterStuck u w).nBits = s.nBits := rfl
@[simp] theorem State.enterStuck_maxCode (s u : State) (w : Stuck) : (s.enterStuck u w).maxCode = s.maxCode := rfl
@[simp] theorem State.enterStuck_freeEnt (s u : State) (w : Stuck) : (s.enterStuck u w).freeEnt = s.freeEnt := rfl
@[simp] theorem State.enterStuck_clearFlag (s u : State) (w : Stuck) : (s.enterStuck u w).clearFlag = s.clearFlag := rfl
@[simp] theorem State.enterStuck_acc (s u : State) (w : Stuck) : (s.enterStuck u w).acc = s.acc := rfl
@[simp] theorem State.enterStuck_bits (s u : State) (w : Stuck) : (s.enterStuck u w).bits = s.bits := rfl
@[simp] theorem State.enterStuck_aCount (s u : State) (w : Stuck) : (s.enterStuck u w).aCount = s.aCount := rfl
@[simp] theorem State.enterStuck_outCount (s u : State) (w : Stuck) : (s.enterStuck u w).outCount = s.outCount := rfl
@[simp] theorem State.enterStuck_errCode (s u : State) (w : Stuck) : (s.enterStuck u w).errCode = s.errCode := rfl
@[simp] theorem State.enterStuck_reason (s u : State) (w : Stuck) : (s.enterStuck u w).reason = s.reason := rfl
@[simp] theorem State.enterStuck_ht (s u : State) (w : Stuck) : (s.enterStuck u w).ht = s.ht := rfl
@[simp] theorem State.enterStuck_ct (s u : State) (w : Stuck) : (s.enterStuck u w).ct = s.ct := rfl
@[simp] theorem State.enterStuck_bb (s u : State) (w : Stuck) : (s.enterStuck u w).bb = s.bb := rfl
@[simp] theorem State.enterStuck_pix (s u : State) (w : Stuck) : (s.enterStuck u w).pix = s.pix := rfl
@[simp] theorem State.enterStuck_sinkOut (s u : State) (w : Stuck) : (s.enterStuck u w).sinkOut = u.sinkOut := rfl
@[simp] theorem State.enterStuck_pixDirty (s u : State) (w : Stuck) : (s.enterStuck u w).pixDirty = s.pixDirty := rfl
@[simp] theorem State.enterStuck_sinkAnswers (s u : State) (w : Stuck) : (s.enterStuck u w).sinkAnswers = u.sinkAnswers := rfl
@[simp] theorem State.enterStuck_inputs (s u : State) (w : Stuck) : (s.enterStuck u w).inputs = s.inputs := rfl
@[simp] theorem State.enterStuck_rdata (s u : State) (w : Stuck) : (s.enterStuck u w).rdata = s.rdata := rfl
@[simp] theorem State.enterStuck_result (s u : State) (w : Stuck) : (s.enterStuck u w).result = s.result := rfl
@[simp] theorem State.enterStuck_stuck (s u : State) (w : Stuck) : (s.enterStuck u w).stuck = some w := rfl
@[simp] theorem State.enterStuck_draws (s u : State) (w : Stuck) : (s.enterStuck u w).draws = u.draws := rfl

@[simp] theorem State.raise_invalidInput_state (s : State) (r : BitVec 4) : (s.raise (.invalidInput r)).state = stError := rfl
@[simp] theorem State.raise_invalidInput_startReq (s : State) (r : BitVec 4) : (s.raise (.invalidInput r)).startReq = s.startReq := rfl
@[simp] theorem State.raise_invalidInput_width (s : State) (r : BitVec 4) : (s.raise (.invalidInput r)).width = s.width := rfl
@[simp] theorem State.raise_invalidInput_height (s : State) (r : BitVec 4) : (s.raise (.invalidInput r)).height = s.height := rfl
@[simp] theorem State.raise_invalidInput_depth (s : State) (r : BitVec 4) : (s.raise (.invalidInput r)).depth = s.depth := rfl
@[simp] theorem State.raise_invalidInput_buflen (s : State) (r : BitVec 4) : (s.raise (.invalidInput r)).buflen = s.buflen := rfl
@[simp] theorem State.raise_invalidInput_lWidth (s : State) (r : BitVec 4) : (s.raise (.invalidInput r)).lWidth = s.lWidth := rfl
@[simp] theorem State.raise_invalidInput_lHeight (s : State) (r : BitVec 4) : (s.raise (.invalidInput r)).lHeight = s.lHeight := rfl
@[simp] theorem State.raise_invalidInput_lDepth (s : State) (r : BitVec 4) : (s.raise (.invalidInput r)).lDepth = s.lDepth := rfl
@[simp] theorem State.raise_invalidInput_lBuflen (s : State) (r : BitVec 4) : (s.raise (.invalidInput r)).lBuflen = s.lBuflen := rfl
@[simp] theorem State.raise_invalidInput_init (s : State) (r : BitVec 4) : (s.raise (.invalidInput r)).init = s.init := rfl
@[simp] theorem State.raise_invalidInput_clear (s : State) (r : BitVec 4) : (s.raise (.invalidInput r)).clear = s.clear := rfl
@[simp] theorem State.raise_invalidInput_eofc (s : State) (r : BitVec 4) : (s.raise (.invalidInput r)).eofc = s.eofc := rfl
@[simp] theorem State.raise_invalidInput_n (s : State) (r : BitVec 4) : (s.raise (.invalidInput r)).n = s.n := rfl
@[simp] theorem State.raise_invalidInput_cursor (s : State) (r : BitVec 4) : (s.raise (.invalidInput r)).cursor = s.cursor := rfl
@[simp] theorem State.raise_invalidInput_ent (s : State) (r : BitVec 4) : (s.raise (.invalidInput r)).ent = s.ent := rfl
@[simp] theorem State.raise_invalidInput_entValid (s : State) (r : BitVec 4) : (s.raise (.invalidInput r)).entValid = s.entValid := rfl
@[simp] theorem State.raise_invalidInput_nBits (s : State) (r : BitVec 4) : (s.raise (.invalidInput r)).nBits = s.nBits := rfl
@[simp] theorem State.raise_invalidInput_maxCode (s : State) (r : BitVec 4) : (s.raise (.invalidInput r)).maxCode = s.maxCode := rfl
@[simp] theorem State.raise_invalidInput_freeEnt (s : State) (r : BitVec 4) : (s.raise (.invalidInput r)).freeEnt = s.freeEnt := rfl
@[simp] theorem State.raise_invalidInput_clearFlag (s : State) (r : BitVec 4) : (s.raise (.invalidInput r)).clearFlag = s.clearFlag := rfl
@[simp] theorem State.raise_invalidInput_acc (s : State) (r : BitVec 4) : (s.raise (.invalidInput r)).acc = s.acc := rfl
@[simp] theorem State.raise_invalidInput_bits (s : State) (r : BitVec 4) : (s.raise (.invalidInput r)).bits = s.bits := rfl
@[simp] theorem State.raise_invalidInput_aCount (s : State) (r : BitVec 4) : (s.raise (.invalidInput r)).aCount = s.aCount := rfl
@[simp] theorem State.raise_invalidInput_outCount (s : State) (r : BitVec 4) : (s.raise (.invalidInput r)).outCount = s.outCount := rfl
@[simp] theorem State.raise_invalidInput_errCode (s : State) (r : BitVec 4) : (s.raise (.invalidInput r)).errCode = errInvalidInput := rfl
@[simp] theorem State.raise_invalidInput_reason (s : State) (r : BitVec 4) : (s.raise (.invalidInput r)).reason = r := rfl
@[simp] theorem State.raise_invalidInput_ht (s : State) (r : BitVec 4) : (s.raise (.invalidInput r)).ht = s.ht := rfl
@[simp] theorem State.raise_invalidInput_ct (s : State) (r : BitVec 4) : (s.raise (.invalidInput r)).ct = s.ct := rfl
@[simp] theorem State.raise_invalidInput_bb (s : State) (r : BitVec 4) : (s.raise (.invalidInput r)).bb = s.bb := rfl
@[simp] theorem State.raise_invalidInput_pix (s : State) (r : BitVec 4) : (s.raise (.invalidInput r)).pix = s.pix := rfl
@[simp] theorem State.raise_invalidInput_sinkOut (s : State) (r : BitVec 4) : (s.raise (.invalidInput r)).sinkOut = s.sinkOut := rfl
@[simp] theorem State.raise_invalidInput_pixDirty (s : State) (r : BitVec 4) : (s.raise (.invalidInput r)).pixDirty = s.pixDirty := rfl
@[simp] theorem State.raise_invalidInput_sinkAnswers (s : State) (r : BitVec 4) : (s.raise (.invalidInput r)).sinkAnswers = s.sinkAnswers := rfl
@[simp] theorem State.raise_invalidInput_inputs (s : State) (r : BitVec 4) : (s.raise (.invalidInput r)).inputs = s.inputs := rfl
@[simp] theorem State.raise_invalidInput_rdata (s : State) (r : BitVec 4) : (s.raise (.invalidInput r)).rdata = s.rdata := rfl
@[simp] theorem State.raise_invalidInput_result (s : State) (r : BitVec 4) : (s.raise (.invalidInput r)).result = s.result := rfl
@[simp] theorem State.raise_invalidInput_stuck (s : State) (r : BitVec 4) : (s.raise (.invalidInput r)).stuck = s.stuck := rfl
@[simp] theorem State.raise_invalidInput_draws (s : State) (r : BitVec 4) : (s.raise (.invalidInput r)).draws = s.draws := rfl

@[simp] theorem State.raise_sinkFailure_state (s : State) : (s.raise .sinkFailure).state = stError := rfl
@[simp] theorem State.raise_sinkFailure_startReq (s : State) : (s.raise .sinkFailure).startReq = false := rfl
@[simp] theorem State.raise_sinkFailure_width (s : State) : (s.raise .sinkFailure).width = s.width := rfl
@[simp] theorem State.raise_sinkFailure_height (s : State) : (s.raise .sinkFailure).height = s.height := rfl
@[simp] theorem State.raise_sinkFailure_depth (s : State) : (s.raise .sinkFailure).depth = s.depth := rfl
@[simp] theorem State.raise_sinkFailure_buflen (s : State) : (s.raise .sinkFailure).buflen = s.buflen := rfl
@[simp] theorem State.raise_sinkFailure_lWidth (s : State) : (s.raise .sinkFailure).lWidth = s.lWidth := rfl
@[simp] theorem State.raise_sinkFailure_lHeight (s : State) : (s.raise .sinkFailure).lHeight = s.lHeight := rfl
@[simp] theorem State.raise_sinkFailure_lDepth (s : State) : (s.raise .sinkFailure).lDepth = s.lDepth := rfl
@[simp] theorem State.raise_sinkFailure_lBuflen (s : State) : (s.raise .sinkFailure).lBuflen = s.lBuflen := rfl
@[simp] theorem State.raise_sinkFailure_init (s : State) : (s.raise .sinkFailure).init = s.init := rfl
@[simp] theorem State.raise_sinkFailure_clear (s : State) : (s.raise .sinkFailure).clear = s.clear := rfl
@[simp] theorem State.raise_sinkFailure_eofc (s : State) : (s.raise .sinkFailure).eofc = s.eofc := rfl
@[simp] theorem State.raise_sinkFailure_n (s : State) : (s.raise .sinkFailure).n = s.n := rfl
@[simp] theorem State.raise_sinkFailure_cursor (s : State) : (s.raise .sinkFailure).cursor = Config.drawCursor s.draws := rfl
@[simp] theorem State.raise_sinkFailure_ent (s : State) : (s.raise .sinkFailure).ent = Config.drawEnt s.draws := rfl
@[simp] theorem State.raise_sinkFailure_entValid (s : State) : (s.raise .sinkFailure).entValid = Config.drawEntValid s.draws := rfl
@[simp] theorem State.raise_sinkFailure_nBits (s : State) : (s.raise .sinkFailure).nBits = Config.drawNBits s.draws := rfl
@[simp] theorem State.raise_sinkFailure_maxCode (s : State) : (s.raise .sinkFailure).maxCode = Config.drawMaxCode s.draws := rfl
@[simp] theorem State.raise_sinkFailure_freeEnt (s : State) : (s.raise .sinkFailure).freeEnt = Config.drawFreeEnt s.draws := rfl
@[simp] theorem State.raise_sinkFailure_clearFlag (s : State) : (s.raise .sinkFailure).clearFlag = Config.drawClearFlag s.draws := rfl
@[simp] theorem State.raise_sinkFailure_acc (s : State) : (s.raise .sinkFailure).acc = Config.drawAcc s.draws := rfl
@[simp] theorem State.raise_sinkFailure_bits (s : State) : (s.raise .sinkFailure).bits = Config.drawBits s.draws := rfl
@[simp] theorem State.raise_sinkFailure_aCount (s : State) : (s.raise .sinkFailure).aCount = Config.drawACount s.draws := rfl
@[simp] theorem State.raise_sinkFailure_outCount (s : State) : (s.raise .sinkFailure).outCount = s.outCount := rfl
@[simp] theorem State.raise_sinkFailure_errCode (s : State) : (s.raise .sinkFailure).errCode = errSinkFailure := rfl
@[simp] theorem State.raise_sinkFailure_reason (s : State) : (s.raise .sinkFailure).reason = 0#4 := rfl
@[simp] theorem State.raise_sinkFailure_ht (s : State) : (s.raise .sinkFailure).ht = Config.drawHt s.draws := rfl
@[simp] theorem State.raise_sinkFailure_ct (s : State) : (s.raise .sinkFailure).ct = Config.drawCt s.draws := rfl
@[simp] theorem State.raise_sinkFailure_bb (s : State) : (s.raise .sinkFailure).bb = Config.drawBb s.draws := rfl
@[simp] theorem State.raise_sinkFailure_pix (s : State) : (s.raise .sinkFailure).pix = s.pix := rfl
@[simp] theorem State.raise_sinkFailure_sinkOut (s : State) : (s.raise .sinkFailure).sinkOut = s.sinkOut := rfl
@[simp] theorem State.raise_sinkFailure_pixDirty (s : State) : (s.raise .sinkFailure).pixDirty = s.pixDirty := rfl
@[simp] theorem State.raise_sinkFailure_sinkAnswers (s : State) : (s.raise .sinkFailure).sinkAnswers = s.sinkAnswers := rfl
@[simp] theorem State.raise_sinkFailure_inputs (s : State) : (s.raise .sinkFailure).inputs = s.inputs := rfl
@[simp] theorem State.raise_sinkFailure_rdata (s : State) : (s.raise .sinkFailure).rdata = s.rdata := rfl
@[simp] theorem State.raise_sinkFailure_result (s : State) : (s.raise .sinkFailure).result = s.result := rfl
@[simp] theorem State.raise_sinkFailure_stuck (s : State) : (s.raise .sinkFailure).stuck = s.stuck := rfl
@[simp] theorem State.raise_sinkFailure_draws (s : State) : (s.raise .sinkFailure).draws = s.draws + 1 := rfl

@[simp] theorem State.applyReset_state (s : State) : s.applyReset.state = stIdle := rfl
@[simp] theorem State.applyReset_startReq (s : State) : s.applyReset.startReq = false := rfl
@[simp] theorem State.applyReset_width (s : State) : s.applyReset.width = 0#16 := rfl
@[simp] theorem State.applyReset_height (s : State) : s.applyReset.height = 0#16 := rfl
@[simp] theorem State.applyReset_depth (s : State) : s.applyReset.depth = 0#8 := rfl
@[simp] theorem State.applyReset_buflen (s : State) : s.applyReset.buflen = 0#32 := rfl
@[simp] theorem State.applyReset_lWidth (s : State) : s.applyReset.lWidth = 0#16 := rfl
@[simp] theorem State.applyReset_lHeight (s : State) : s.applyReset.lHeight = 0#16 := rfl
@[simp] theorem State.applyReset_lDepth (s : State) : s.applyReset.lDepth = 0#8 := rfl
@[simp] theorem State.applyReset_lBuflen (s : State) : s.applyReset.lBuflen = 0#32 := rfl
@[simp] theorem State.applyReset_init (s : State) : s.applyReset.init = 0#4 := rfl
@[simp] theorem State.applyReset_clear (s : State) : s.applyReset.clear = 0#9 := rfl
@[simp] theorem State.applyReset_eofc (s : State) : s.applyReset.eofc = 0#9 := rfl
@[simp] theorem State.applyReset_n (s : State) : s.applyReset.n = 0#32 := rfl
@[simp] theorem State.applyReset_cursor (s : State) : s.applyReset.cursor = 0#32 := rfl
@[simp] theorem State.applyReset_ent (s : State) : s.applyReset.ent = 0#12 := rfl
@[simp] theorem State.applyReset_entValid (s : State) : s.applyReset.entValid = false := rfl
@[simp] theorem State.applyReset_nBits (s : State) : s.applyReset.nBits = 0#4 := rfl
@[simp] theorem State.applyReset_maxCode (s : State) : s.applyReset.maxCode = 0#12 := rfl
@[simp] theorem State.applyReset_freeEnt (s : State) : s.applyReset.freeEnt = 0#13 := rfl
@[simp] theorem State.applyReset_clearFlag (s : State) : s.applyReset.clearFlag = false := rfl
@[simp] theorem State.applyReset_acc (s : State) : s.applyReset.acc = 0#19 := rfl
@[simp] theorem State.applyReset_bits (s : State) : s.applyReset.bits = 0#5 := rfl
@[simp] theorem State.applyReset_aCount (s : State) : s.applyReset.aCount = 0#8 := rfl
@[simp] theorem State.applyReset_outCount (s : State) : s.applyReset.outCount = 0#32 := rfl
@[simp] theorem State.applyReset_errCode (s : State) : s.applyReset.errCode = 0#4 := rfl
@[simp] theorem State.applyReset_reason (s : State) : s.applyReset.reason = 0#4 := rfl
@[simp] theorem State.applyReset_ht (s : State) : s.applyReset.ht = Config.drawHt s.draws := rfl
@[simp] theorem State.applyReset_ct (s : State) : s.applyReset.ct = Config.drawCt s.draws := rfl
@[simp] theorem State.applyReset_bb (s : State) : s.applyReset.bb = Config.drawBb s.draws := rfl
@[simp] theorem State.applyReset_pix (s : State) : s.applyReset.pix = s.pix := rfl
@[simp] theorem State.applyReset_pixDirty (s : State) : s.applyReset.pixDirty = [] := rfl
@[simp] theorem State.applyReset_sinkAnswers (s : State) : s.applyReset.sinkAnswers = s.sinkAnswers := rfl
@[simp] theorem State.applyReset_inputs (s : State) : s.applyReset.inputs = s.inputs := rfl
@[simp] theorem State.applyReset_rdata (s : State) : s.applyReset.rdata = s.rdata := rfl
@[simp] theorem State.applyReset_result (s : State) : s.applyReset.result = s.result := rfl
@[simp] theorem State.applyReset_stuck (s : State) : s.applyReset.stuck = none := rfl
@[simp] theorem State.applyReset_draws (s : State) : s.applyReset.draws = s.draws + 1 := rfl

@[simp] theorem State.appendCode_state (s : State) (c : Code) : (s.appendCode c).state = s.state := rfl
@[simp] theorem State.appendCode_startReq (s : State) (c : Code) : (s.appendCode c).startReq = s.startReq := rfl
@[simp] theorem State.appendCode_width (s : State) (c : Code) : (s.appendCode c).width = s.width := rfl
@[simp] theorem State.appendCode_height (s : State) (c : Code) : (s.appendCode c).height = s.height := rfl
@[simp] theorem State.appendCode_depth (s : State) (c : Code) : (s.appendCode c).depth = s.depth := rfl
@[simp] theorem State.appendCode_buflen (s : State) (c : Code) : (s.appendCode c).buflen = s.buflen := rfl
@[simp] theorem State.appendCode_lWidth (s : State) (c : Code) : (s.appendCode c).lWidth = s.lWidth := rfl
@[simp] theorem State.appendCode_lHeight (s : State) (c : Code) : (s.appendCode c).lHeight = s.lHeight := rfl
@[simp] theorem State.appendCode_lDepth (s : State) (c : Code) : (s.appendCode c).lDepth = s.lDepth := rfl
@[simp] theorem State.appendCode_lBuflen (s : State) (c : Code) : (s.appendCode c).lBuflen = s.lBuflen := rfl
@[simp] theorem State.appendCode_init (s : State) (c : Code) : (s.appendCode c).init = s.init := rfl
@[simp] theorem State.appendCode_clear (s : State) (c : Code) : (s.appendCode c).clear = s.clear := rfl
@[simp] theorem State.appendCode_eofc (s : State) (c : Code) : (s.appendCode c).eofc = s.eofc := rfl
@[simp] theorem State.appendCode_n (s : State) (c : Code) : (s.appendCode c).n = s.n := rfl
@[simp] theorem State.appendCode_cursor (s : State) (c : Code) : (s.appendCode c).cursor = s.cursor := rfl
@[simp] theorem State.appendCode_ent (s : State) (c : Code) : (s.appendCode c).ent = s.ent := rfl
@[simp] theorem State.appendCode_entValid (s : State) (c : Code) : (s.appendCode c).entValid = s.entValid := rfl
@[simp] theorem State.appendCode_nBits (s : State) (c : Code) : (s.appendCode c).nBits = s.nBits := rfl
@[simp] theorem State.appendCode_maxCode (s : State) (c : Code) : (s.appendCode c).maxCode = s.maxCode := rfl
@[simp] theorem State.appendCode_freeEnt (s : State) (c : Code) : (s.appendCode c).freeEnt = s.freeEnt := rfl
@[simp] theorem State.appendCode_clearFlag (s : State) (c : Code) : (s.appendCode c).clearFlag = s.clearFlag := rfl
@[simp] theorem State.appendCode_acc (s : State) (c : Code) : (s.appendCode c).acc = BitVec.ofNat 19 (s.acc.toNat + (c.toNat % 2 ^ s.nBits.toNat) <<< s.bits.toNat) := rfl
@[simp] theorem State.appendCode_bits (s : State) (c : Code) : (s.appendCode c).bits = BitVec.ofNat 5 (s.bits.toNat + s.nBits.toNat) := rfl
@[simp] theorem State.appendCode_aCount (s : State) (c : Code) : (s.appendCode c).aCount = s.aCount := rfl
@[simp] theorem State.appendCode_outCount (s : State) (c : Code) : (s.appendCode c).outCount = s.outCount := rfl
@[simp] theorem State.appendCode_errCode (s : State) (c : Code) : (s.appendCode c).errCode = s.errCode := rfl
@[simp] theorem State.appendCode_reason (s : State) (c : Code) : (s.appendCode c).reason = s.reason := rfl
@[simp] theorem State.appendCode_ht (s : State) (c : Code) : (s.appendCode c).ht = s.ht := rfl
@[simp] theorem State.appendCode_ct (s : State) (c : Code) : (s.appendCode c).ct = s.ct := rfl
@[simp] theorem State.appendCode_bb (s : State) (c : Code) : (s.appendCode c).bb = s.bb := rfl
@[simp] theorem State.appendCode_pix (s : State) (c : Code) : (s.appendCode c).pix = s.pix := rfl
@[simp] theorem State.appendCode_sinkOut (s : State) (c : Code) : (s.appendCode c).sinkOut = s.sinkOut := rfl
@[simp] theorem State.appendCode_pixDirty (s : State) (c : Code) : (s.appendCode c).pixDirty = s.pixDirty := rfl
@[simp] theorem State.appendCode_sinkAnswers (s : State) (c : Code) : (s.appendCode c).sinkAnswers = s.sinkAnswers := rfl
@[simp] theorem State.appendCode_inputs (s : State) (c : Code) : (s.appendCode c).inputs = s.inputs := rfl
@[simp] theorem State.appendCode_rdata (s : State) (c : Code) : (s.appendCode c).rdata = s.rdata := rfl
@[simp] theorem State.appendCode_result (s : State) (c : Code) : (s.appendCode c).result = s.result := rfl
@[simp] theorem State.appendCode_stuck (s : State) (c : Code) : (s.appendCode c).stuck = s.stuck := rfl
@[simp] theorem State.appendCode_draws (s : State) (c : Code) : (s.appendCode c).draws = s.draws := rfl

@[simp] theorem State.startRun_state (s : State) : s.startRun.state = s.state := rfl
@[simp] theorem State.startRun_startReq (s : State) : s.startRun.startReq = false := rfl
@[simp] theorem State.startRun_width (s : State) : s.startRun.width = s.width := rfl
@[simp] theorem State.startRun_height (s : State) : s.startRun.height = s.height := rfl
@[simp] theorem State.startRun_depth (s : State) : s.startRun.depth = s.depth := rfl
@[simp] theorem State.startRun_buflen (s : State) : s.startRun.buflen = s.buflen := rfl
@[simp] theorem State.startRun_lWidth (s : State) : s.startRun.lWidth = s.lWidth := rfl
@[simp] theorem State.startRun_lHeight (s : State) : s.startRun.lHeight = s.lHeight := rfl
@[simp] theorem State.startRun_lDepth (s : State) : s.startRun.lDepth = s.lDepth := rfl
@[simp] theorem State.startRun_lBuflen (s : State) : s.startRun.lBuflen = s.lBuflen := rfl
@[simp] theorem State.startRun_init (s : State) : s.startRun.init = runInit s.lDepth := rfl
@[simp] theorem State.startRun_clear (s : State) : s.startRun.clear = runClear (runInit s.lDepth) := rfl
@[simp] theorem State.startRun_eofc (s : State) : s.startRun.eofc = runEofc (runClear (runInit s.lDepth)) := rfl
@[simp] theorem State.startRun_n (s : State) : s.startRun.n = pixelCount s.lWidth s.lHeight := rfl
@[simp] theorem State.startRun_cursor (s : State) : s.startRun.cursor = s.cursor := rfl
@[simp] theorem State.startRun_ent (s : State) : s.startRun.ent = s.ent := rfl
@[simp] theorem State.startRun_entValid (s : State) : s.startRun.entValid = s.entValid := rfl
@[simp] theorem State.startRun_nBits (s : State) : s.startRun.nBits = s.nBits := rfl
@[simp] theorem State.startRun_maxCode (s : State) : s.startRun.maxCode = s.maxCode := rfl
@[simp] theorem State.startRun_freeEnt (s : State) : s.startRun.freeEnt = s.freeEnt := rfl
@[simp] theorem State.startRun_clearFlag (s : State) : s.startRun.clearFlag = s.clearFlag := rfl
@[simp] theorem State.startRun_acc (s : State) : s.startRun.acc = s.acc := rfl
@[simp] theorem State.startRun_bits (s : State) : s.startRun.bits = s.bits := rfl
@[simp] theorem State.startRun_aCount (s : State) : s.startRun.aCount = s.aCount := rfl
@[simp] theorem State.startRun_outCount (s : State) : s.startRun.outCount = 0#32 := rfl
@[simp] theorem State.startRun_errCode (s : State) : s.startRun.errCode = errNone := rfl
@[simp] theorem State.startRun_reason (s : State) : s.startRun.reason = 0#4 := rfl
@[simp] theorem State.startRun_ht (s : State) : s.startRun.ht = s.ht := rfl
@[simp] theorem State.startRun_ct (s : State) : s.startRun.ct = s.ct := rfl
@[simp] theorem State.startRun_bb (s : State) : s.startRun.bb = s.bb := rfl
@[simp] theorem State.startRun_pix (s : State) : s.startRun.pix = s.pix := rfl
@[simp] theorem State.startRun_sinkOut (s : State) : s.startRun.sinkOut = s.sinkOut := rfl
@[simp] theorem State.startRun_pixDirty (s : State) : s.startRun.pixDirty = s.pixDirty := rfl
@[simp] theorem State.startRun_sinkAnswers (s : State) : s.startRun.sinkAnswers = s.sinkAnswers := rfl
@[simp] theorem State.startRun_inputs (s : State) : s.startRun.inputs = s.inputs := rfl
@[simp] theorem State.startRun_rdata (s : State) : s.startRun.rdata = s.rdata := rfl
@[simp] theorem State.startRun_result (s : State) : s.startRun.result = s.result := rfl
@[simp] theorem State.startRun_stuck (s : State) : s.startRun.stuck = s.stuck := rfl
@[simp] theorem State.startRun_draws (s : State) : s.startRun.draws = s.draws := rfl

@[simp] theorem State.freshRun_state (s : State) : s.freshRun.state = s.state := rfl
@[simp] theorem State.freshRun_startReq (s : State) : s.freshRun.startReq = s.startReq := rfl
@[simp] theorem State.freshRun_width (s : State) : s.freshRun.width = s.width := rfl
@[simp] theorem State.freshRun_height (s : State) : s.freshRun.height = s.height := rfl
@[simp] theorem State.freshRun_depth (s : State) : s.freshRun.depth = s.depth := rfl
@[simp] theorem State.freshRun_buflen (s : State) : s.freshRun.buflen = s.buflen := rfl
@[simp] theorem State.freshRun_lWidth (s : State) : s.freshRun.lWidth = s.lWidth := rfl
@[simp] theorem State.freshRun_lHeight (s : State) : s.freshRun.lHeight = s.lHeight := rfl
@[simp] theorem State.freshRun_lDepth (s : State) : s.freshRun.lDepth = s.lDepth := rfl
@[simp] theorem State.freshRun_lBuflen (s : State) : s.freshRun.lBuflen = s.lBuflen := rfl
@[simp] theorem State.freshRun_init (s : State) : s.freshRun.init = s.init := rfl
@[simp] theorem State.freshRun_clear (s : State) : s.freshRun.clear = s.clear := rfl
@[simp] theorem State.freshRun_eofc (s : State) : s.freshRun.eofc = s.eofc := rfl
@[simp] theorem State.freshRun_n (s : State) : s.freshRun.n = s.n := rfl
@[simp] theorem State.freshRun_cursor (s : State) : s.freshRun.cursor = 0#32 := rfl
@[simp] theorem State.freshRun_ent (s : State) : s.freshRun.ent = s.ent := rfl
@[simp] theorem State.freshRun_entValid (s : State) : s.freshRun.entValid = s.entValid := rfl
@[simp] theorem State.freshRun_nBits (s : State) : s.freshRun.nBits = initWidth s.init := rfl
@[simp] theorem State.freshRun_maxCode (s : State) : s.freshRun.maxCode = maxCodeOf (initWidth s.init) := rfl
@[simp] theorem State.freshRun_freeEnt (s : State) : s.freshRun.freeEnt = firstFree s.clear := rfl
@[simp] theorem State.freshRun_clearFlag (s : State) : s.freshRun.clearFlag = false := rfl
@[simp] theorem State.freshRun_acc (s : State) : s.freshRun.acc = 0#19 := rfl
@[simp] theorem State.freshRun_bits (s : State) : s.freshRun.bits = 0#5 := rfl
@[simp] theorem State.freshRun_aCount (s : State) : s.freshRun.aCount = 0#8 := rfl
@[simp] theorem State.freshRun_outCount (s : State) : s.freshRun.outCount = s.outCount := rfl
@[simp] theorem State.freshRun_errCode (s : State) : s.freshRun.errCode = s.errCode := rfl
@[simp] theorem State.freshRun_reason (s : State) : s.freshRun.reason = s.reason := rfl
@[simp] theorem State.freshRun_ht (s : State) : s.freshRun.ht = Vector.replicate Config.hSize none := rfl
@[simp] theorem State.freshRun_ct (s : State) : s.freshRun.ct = s.ct := rfl
@[simp] theorem State.freshRun_bb (s : State) : s.freshRun.bb = s.bb := rfl
@[simp] theorem State.freshRun_pix (s : State) : s.freshRun.pix = s.pix := rfl
@[simp] theorem State.freshRun_sinkOut (s : State) : s.freshRun.sinkOut = s.sinkOut := rfl
@[simp] theorem State.freshRun_pixDirty (s : State) : s.freshRun.pixDirty = s.pixDirty := rfl
@[simp] theorem State.freshRun_sinkAnswers (s : State) : s.freshRun.sinkAnswers = s.sinkAnswers := rfl
@[simp] theorem State.freshRun_inputs (s : State) : s.freshRun.inputs = s.inputs := rfl
@[simp] theorem State.freshRun_rdata (s : State) : s.freshRun.rdata = s.rdata := rfl
@[simp] theorem State.freshRun_result (s : State) : s.freshRun.result = s.result := rfl
@[simp] theorem State.freshRun_stuck (s : State) : s.freshRun.stuck = s.stuck := rfl
@[simp] theorem State.freshRun_draws (s : State) : s.freshRun.draws = s.draws := rfl

@[simp] theorem State.pushByte_state (s : State) (b : Byte) : (s.pushByte b).state = s.state := rfl
@[simp] theorem State.pushByte_startReq (s : State) (b : Byte) : (s.pushByte b).startReq = s.startReq := rfl
@[simp] theorem State.pushByte_width (s : State) (b : Byte) : (s.pushByte b).width = s.width := rfl
@[simp] theorem State.pushByte_height (s : State) (b : Byte) : (s.pushByte b).height = s.height := rfl
@[simp] theorem State.pushByte_depth (s : State) (b : Byte) : (s.pushByte b).depth = s.depth := rfl
@[simp] theorem State.pushByte_buflen (s : State) (b : Byte) : (s.pushByte b).buflen = s.buflen := rfl
@[simp] theorem State.pushByte_lWidth (s : State) (b : Byte) : (s.pushByte b).lWidth = s.lWidth := rfl
@[simp] theorem State.pushByte_lHeight (s : State) (b : Byte) : (s.pushByte b).lHeight = s.lHeight := rfl
@[simp] theorem State.pushByte_lDepth (s : State) (b : Byte) : (s.pushByte b).lDepth = s.lDepth := rfl
@[simp] theorem State.pushByte_lBuflen (s : State) (b : Byte) : (s.pushByte b).lBuflen = s.lBuflen := rfl
@[simp] theorem State.pushByte_init (s : State) (b : Byte) : (s.pushByte b).init = s.init := rfl
@[simp] theorem State.pushByte_clear (s : State) (b : Byte) : (s.pushByte b).clear = s.clear := rfl
@[simp] theorem State.pushByte_eofc (s : State) (b : Byte) : (s.pushByte b).eofc = s.eofc := rfl
@[simp] theorem State.pushByte_n (s : State) (b : Byte) : (s.pushByte b).n = s.n := rfl
@[simp] theorem State.pushByte_cursor (s : State) (b : Byte) : (s.pushByte b).cursor = s.cursor := rfl
@[simp] theorem State.pushByte_ent (s : State) (b : Byte) : (s.pushByte b).ent = s.ent := rfl
@[simp] theorem State.pushByte_entValid (s : State) (b : Byte) : (s.pushByte b).entValid = s.entValid := rfl
@[simp] theorem State.pushByte_nBits (s : State) (b : Byte) : (s.pushByte b).nBits = s.nBits := rfl
@[simp] theorem State.pushByte_maxCode (s : State) (b : Byte) : (s.pushByte b).maxCode = s.maxCode := rfl
@[simp] theorem State.pushByte_freeEnt (s : State) (b : Byte) : (s.pushByte b).freeEnt = s.freeEnt := rfl
@[simp] theorem State.pushByte_clearFlag (s : State) (b : Byte) : (s.pushByte b).clearFlag = s.clearFlag := rfl
@[simp] theorem State.pushByte_acc (s : State) (b : Byte) : (s.pushByte b).acc = s.acc := rfl
@[simp] theorem State.pushByte_bits (s : State) (b : Byte) : (s.pushByte b).bits = s.bits := rfl
@[simp] theorem State.pushByte_aCount (s : State) (b : Byte) : (s.pushByte b).aCount = s.aCount + 1#8 := rfl
@[simp] theorem State.pushByte_outCount (s : State) (b : Byte) : (s.pushByte b).outCount = s.outCount := rfl
@[simp] theorem State.pushByte_errCode (s : State) (b : Byte) : (s.pushByte b).errCode = s.errCode := rfl
@[simp] theorem State.pushByte_reason (s : State) (b : Byte) : (s.pushByte b).reason = s.reason := rfl
@[simp] theorem State.pushByte_ht (s : State) (b : Byte) : (s.pushByte b).ht = s.ht := rfl
@[simp] theorem State.pushByte_ct (s : State) (b : Byte) : (s.pushByte b).ct = s.ct := rfl
@[simp] theorem State.pushByte_bb (s : State) (b : Byte) : (s.pushByte b).bb = putAt s.bb s.aCount.toNat b := rfl
@[simp] theorem State.pushByte_pix (s : State) (b : Byte) : (s.pushByte b).pix = s.pix := rfl
@[simp] theorem State.pushByte_sinkOut (s : State) (b : Byte) : (s.pushByte b).sinkOut = s.sinkOut := rfl
@[simp] theorem State.pushByte_pixDirty (s : State) (b : Byte) : (s.pushByte b).pixDirty = s.pixDirty := rfl
@[simp] theorem State.pushByte_sinkAnswers (s : State) (b : Byte) : (s.pushByte b).sinkAnswers = s.sinkAnswers := rfl
@[simp] theorem State.pushByte_inputs (s : State) (b : Byte) : (s.pushByte b).inputs = s.inputs := rfl
@[simp] theorem State.pushByte_rdata (s : State) (b : Byte) : (s.pushByte b).rdata = s.rdata := rfl
@[simp] theorem State.pushByte_result (s : State) (b : Byte) : (s.pushByte b).result = s.result := rfl
@[simp] theorem State.pushByte_stuck (s : State) (b : Byte) : (s.pushByte b).stuck = s.stuck := rfl
@[simp] theorem State.pushByte_draws (s : State) (b : Byte) : (s.pushByte b).draws = s.draws := rfl

@[simp] theorem State.dropByte_state (s : State) : s.dropByte.state = s.state := rfl
@[simp] theorem State.dropByte_startReq (s : State) : s.dropByte.startReq = s.startReq := rfl
@[simp] theorem State.dropByte_width (s : State) : s.dropByte.width = s.width := rfl
@[simp] theorem State.dropByte_height (s : State) : s.dropByte.height = s.height := rfl
@[simp] theorem State.dropByte_depth (s : State) : s.dropByte.depth = s.depth := rfl
@[simp] theorem State.dropByte_buflen (s : State) : s.dropByte.buflen = s.buflen := rfl
@[simp] theorem State.dropByte_lWidth (s : State) : s.dropByte.lWidth = s.lWidth := rfl
@[simp] theorem State.dropByte_lHeight (s : State) : s.dropByte.lHeight = s.lHeight := rfl
@[simp] theorem State.dropByte_lDepth (s : State) : s.dropByte.lDepth = s.lDepth := rfl
@[simp] theorem State.dropByte_lBuflen (s : State) : s.dropByte.lBuflen = s.lBuflen := rfl
@[simp] theorem State.dropByte_init (s : State) : s.dropByte.init = s.init := rfl
@[simp] theorem State.dropByte_clear (s : State) : s.dropByte.clear = s.clear := rfl
@[simp] theorem State.dropByte_eofc (s : State) : s.dropByte.eofc = s.eofc := rfl
@[simp] theorem State.dropByte_n (s : State) : s.dropByte.n = s.n := rfl
@[simp] theorem State.dropByte_cursor (s : State) : s.dropByte.cursor = s.cursor := rfl
@[simp] theorem State.dropByte_ent (s : State) : s.dropByte.ent = s.ent := rfl
@[simp] theorem State.dropByte_entValid (s : State) : s.dropByte.entValid = s.entValid := rfl
@[simp] theorem State.dropByte_nBits (s : State) : s.dropByte.nBits = s.nBits := rfl
@[simp] theorem State.dropByte_maxCode (s : State) : s.dropByte.maxCode = s.maxCode := rfl
@[simp] theorem State.dropByte_freeEnt (s : State) : s.dropByte.freeEnt = s.freeEnt := rfl
@[simp] theorem State.dropByte_clearFlag (s : State) : s.dropByte.clearFlag = s.clearFlag := rfl
@[simp] theorem State.dropByte_acc (s : State) : s.dropByte.acc = s.acc >>> 8 := rfl
@[simp] theorem State.dropByte_bits (s : State) : s.dropByte.bits = s.bits - 8#5 := rfl
@[simp] theorem State.dropByte_aCount (s : State) : s.dropByte.aCount = s.aCount := rfl
@[simp] theorem State.dropByte_outCount (s : State) : s.dropByte.outCount = s.outCount := rfl
@[simp] theorem State.dropByte_errCode (s : State) : s.dropByte.errCode = s.errCode := rfl
@[simp] theorem State.dropByte_reason (s : State) : s.dropByte.reason = s.reason := rfl
@[simp] theorem State.dropByte_ht (s : State) : s.dropByte.ht = s.ht := rfl
@[simp] theorem State.dropByte_ct (s : State) : s.dropByte.ct = s.ct := rfl
@[simp] theorem State.dropByte_bb (s : State) : s.dropByte.bb = s.bb := rfl
@[simp] theorem State.dropByte_pix (s : State) : s.dropByte.pix = s.pix := rfl
@[simp] theorem State.dropByte_sinkOut (s : State) : s.dropByte.sinkOut = s.sinkOut := rfl
@[simp] theorem State.dropByte_pixDirty (s : State) : s.dropByte.pixDirty = s.pixDirty := rfl
@[simp] theorem State.dropByte_sinkAnswers (s : State) : s.dropByte.sinkAnswers = s.sinkAnswers := rfl
@[simp] theorem State.dropByte_inputs (s : State) : s.dropByte.inputs = s.inputs := rfl
@[simp] theorem State.dropByte_rdata (s : State) : s.dropByte.rdata = s.rdata := rfl
@[simp] theorem State.dropByte_result (s : State) : s.dropByte.result = s.result := rfl
@[simp] theorem State.dropByte_stuck (s : State) : s.dropByte.stuck = s.stuck := rfl
@[simp] theorem State.dropByte_draws (s : State) : s.dropByte.draws = s.draws := rfl

@[simp] theorem State.clearAcc_state (s : State) : s.clearAcc.state = s.state := rfl
@[simp] theorem State.clearAcc_startReq (s : State) : s.clearAcc.startReq = s.startReq := rfl
@[simp] theorem State.clearAcc_width (s : State) : s.clearAcc.width = s.width := rfl
@[simp] theorem State.clearAcc_height (s : State) : s.clearAcc.height = s.height := rfl
@[simp] theorem State.clearAcc_depth (s : State) : s.clearAcc.depth = s.depth := rfl
@[simp] theorem State.clearAcc_buflen (s : State) : s.clearAcc.buflen = s.buflen := rfl
@[simp] theorem State.clearAcc_lWidth (s : State) : s.clearAcc.lWidth = s.lWidth := rfl
@[simp] theorem State.clearAcc_lHeight (s : State) : s.clearAcc.lHeight = s.lHeight := rfl
@[simp] theorem State.clearAcc_lDepth (s : State) : s.clearAcc.lDepth = s.lDepth := rfl
@[simp] theorem State.clearAcc_lBuflen (s : State) : s.clearAcc.lBuflen = s.lBuflen := rfl
@[simp] theorem State.clearAcc_init (s : State) : s.clearAcc.init = s.init := rfl
@[simp] theorem State.clearAcc_clear (s : State) : s.clearAcc.clear = s.clear := rfl
@[simp] theorem State.clearAcc_eofc (s : State) : s.clearAcc.eofc = s.eofc := rfl
@[simp] theorem State.clearAcc_n (s : State) : s.clearAcc.n = s.n := rfl
@[simp] theorem State.clearAcc_cursor (s : State) : s.clearAcc.cursor = s.cursor := rfl
@[simp] theorem State.clearAcc_ent (s : State) : s.clearAcc.ent = s.ent := rfl
@[simp] theorem State.clearAcc_entValid (s : State) : s.clearAcc.entValid = s.entValid := rfl
@[simp] theorem State.clearAcc_nBits (s : State) : s.clearAcc.nBits = s.nBits := rfl
@[simp] theorem State.clearAcc_maxCode (s : State) : s.clearAcc.maxCode = s.maxCode := rfl
@[simp] theorem State.clearAcc_freeEnt (s : State) : s.clearAcc.freeEnt = s.freeEnt := rfl
@[simp] theorem State.clearAcc_clearFlag (s : State) : s.clearAcc.clearFlag = s.clearFlag := rfl
@[simp] theorem State.clearAcc_acc (s : State) : s.clearAcc.acc = 0#19 := rfl
@[simp] theorem State.clearAcc_bits (s : State) : s.clearAcc.bits = 0#5 := rfl
@[simp] theorem State.clearAcc_aCount (s : State) : s.clearAcc.aCount = s.aCount := rfl
@[simp] theorem State.clearAcc_outCount (s : State) : s.clearAcc.outCount = s.outCount := rfl
@[simp] theorem State.clearAcc_errCode (s : State) : s.clearAcc.errCode = s.errCode := rfl
@[simp] theorem State.clearAcc_reason (s : State) : s.clearAcc.reason = s.reason := rfl
@[simp] theorem State.clearAcc_ht (s : State) : s.clearAcc.ht = s.ht := rfl
@[simp] theorem State.clearAcc_ct (s : State) : s.clearAcc.ct = s.ct := rfl
@[simp] theorem State.clearAcc_bb (s : State) : s.clearAcc.bb = s.bb := rfl
@[simp] theorem State.clearAcc_pix (s : State) : s.clearAcc.pix = s.pix := rfl
@[simp] theorem State.clearAcc_sinkOut (s : State) : s.clearAcc.sinkOut = s.sinkOut := rfl
@[simp] theorem State.clearAcc_pixDirty (s : State) : s.clearAcc.pixDirty = s.pixDirty := rfl
@[simp] theorem State.clearAcc_sinkAnswers (s : State) : s.clearAcc.sinkAnswers = s.sinkAnswers := rfl
@[simp] theorem State.clearAcc_inputs (s : State) : s.clearAcc.inputs = s.inputs := rfl
@[simp] theorem State.clearAcc_rdata (s : State) : s.clearAcc.rdata = s.rdata := rfl
@[simp] theorem State.clearAcc_result (s : State) : s.clearAcc.result = s.result := rfl
@[simp] theorem State.clearAcc_stuck (s : State) : s.clearAcc.stuck = s.stuck := rfl
@[simp] theorem State.clearAcc_draws (s : State) : s.clearAcc.draws = s.draws := rfl

@[simp] theorem State.advance_state (s : State) : s.advance.state = s.state := rfl
@[simp] theorem State.advance_startReq (s : State) : s.advance.startReq = s.startReq := rfl
@[simp] theorem State.advance_width (s : State) : s.advance.width = s.width := rfl
@[simp] theorem State.advance_height (s : State) : s.advance.height = s.height := rfl
@[simp] theorem State.advance_depth (s : State) : s.advance.depth = s.depth := rfl
@[simp] theorem State.advance_buflen (s : State) : s.advance.buflen = s.buflen := rfl
@[simp] theorem State.advance_lWidth (s : State) : s.advance.lWidth = s.lWidth := rfl
@[simp] theorem State.advance_lHeight (s : State) : s.advance.lHeight = s.lHeight := rfl
@[simp] theorem State.advance_lDepth (s : State) : s.advance.lDepth = s.lDepth := rfl
@[simp] theorem State.advance_lBuflen (s : State) : s.advance.lBuflen = s.lBuflen := rfl
@[simp] theorem State.advance_init (s : State) : s.advance.init = s.init := rfl
@[simp] theorem State.advance_clear (s : State) : s.advance.clear = s.clear := rfl
@[simp] theorem State.advance_eofc (s : State) : s.advance.eofc = s.eofc := rfl
@[simp] theorem State.advance_n (s : State) : s.advance.n = s.n := rfl
@[simp] theorem State.advance_cursor (s : State) : s.advance.cursor = s.cursor + 1#32 := rfl
@[simp] theorem State.advance_ent (s : State) : s.advance.ent = s.ent := rfl
@[simp] theorem State.advance_entValid (s : State) : s.advance.entValid = s.entValid := rfl
@[simp] theorem State.advance_nBits (s : State) : s.advance.nBits = s.nBits := rfl
@[simp] theorem State.advance_maxCode (s : State) : s.advance.maxCode = s.maxCode := rfl
@[simp] theorem State.advance_freeEnt (s : State) : s.advance.freeEnt = s.freeEnt := rfl
@[simp] theorem State.advance_clearFlag (s : State) : s.advance.clearFlag = s.clearFlag := rfl
@[simp] theorem State.advance_acc (s : State) : s.advance.acc = s.acc := rfl
@[simp] theorem State.advance_bits (s : State) : s.advance.bits = s.bits := rfl
@[simp] theorem State.advance_aCount (s : State) : s.advance.aCount = s.aCount := rfl
@[simp] theorem State.advance_outCount (s : State) : s.advance.outCount = s.outCount := rfl
@[simp] theorem State.advance_errCode (s : State) : s.advance.errCode = s.errCode := rfl
@[simp] theorem State.advance_reason (s : State) : s.advance.reason = s.reason := rfl
@[simp] theorem State.advance_ht (s : State) : s.advance.ht = s.ht := rfl
@[simp] theorem State.advance_ct (s : State) : s.advance.ct = s.ct := rfl
@[simp] theorem State.advance_bb (s : State) : s.advance.bb = s.bb := rfl
@[simp] theorem State.advance_pix (s : State) : s.advance.pix = s.pix := rfl
@[simp] theorem State.advance_sinkOut (s : State) : s.advance.sinkOut = s.sinkOut := rfl
@[simp] theorem State.advance_pixDirty (s : State) : s.advance.pixDirty = s.pixDirty := rfl
@[simp] theorem State.advance_sinkAnswers (s : State) : s.advance.sinkAnswers = s.sinkAnswers := rfl
@[simp] theorem State.advance_inputs (s : State) : s.advance.inputs = s.inputs := rfl
@[simp] theorem State.advance_rdata (s : State) : s.advance.rdata = s.rdata := rfl
@[simp] theorem State.advance_result (s : State) : s.advance.result = s.result := rfl
@[simp] theorem State.advance_stuck (s : State) : s.advance.stuck = s.stuck := rfl
@[simp] theorem State.advance_draws (s : State) : s.advance.draws = s.draws := rfl

@[simp] theorem State.withDraws_state (s : State) (d : Nat) : (s.withDraws d).state = s.state := rfl
@[simp] theorem State.withDraws_startReq (s : State) (d : Nat) : (s.withDraws d).startReq = s.startReq := rfl
@[simp] theorem State.withDraws_width (s : State) (d : Nat) : (s.withDraws d).width = s.width := rfl
@[simp] theorem State.withDraws_height (s : State) (d : Nat) : (s.withDraws d).height = s.height := rfl
@[simp] theorem State.withDraws_depth (s : State) (d : Nat) : (s.withDraws d).depth = s.depth := rfl
@[simp] theorem State.withDraws_buflen (s : State) (d : Nat) : (s.withDraws d).buflen = s.buflen := rfl
@[simp] theorem State.withDraws_lWidth (s : State) (d : Nat) : (s.withDraws d).lWidth = s.lWidth := rfl
@[simp] theorem State.withDraws_lHeight (s : State) (d : Nat) : (s.withDraws d).lHeight = s.lHeight := rfl
@[simp] theorem State.withDraws_lDepth (s : State) (d : Nat) : (s.withDraws d).lDepth = s.lDepth := rfl
@[simp] theorem State.withDraws_lBuflen (s : State) (d : Nat) : (s.withDraws d).lBuflen = s.lBuflen := rfl
@[simp] theorem State.withDraws_init (s : State) (d : Nat) : (s.withDraws d).init = s.init := rfl
@[simp] theorem State.withDraws_clear (s : State) (d : Nat) : (s.withDraws d).clear = s.clear := rfl
@[simp] theorem State.withDraws_eofc (s : State) (d : Nat) : (s.withDraws d).eofc = s.eofc := rfl
@[simp] theorem State.withDraws_n (s : State) (d : Nat) : (s.withDraws d).n = s.n := rfl
@[simp] theorem State.withDraws_cursor (s : State) (d : Nat) : (s.withDraws d).cursor = s.cursor := rfl
@[simp] theorem State.withDraws_ent (s : State) (d : Nat) : (s.withDraws d).ent = s.ent := rfl
@[simp] theorem State.withDraws_entValid (s : State) (d : Nat) : (s.withDraws d).entValid = s.entValid := rfl
@[simp] theorem State.withDraws_nBits (s : State) (d : Nat) : (s.withDraws d).nBits = s.nBits := rfl
@[simp] theorem State.withDraws_maxCode (s : State) (d : Nat) : (s.withDraws d).maxCode = s.maxCode := rfl
@[simp] theorem State.withDraws_freeEnt (s : State) (d : Nat) : (s.withDraws d).freeEnt = s.freeEnt := rfl
@[simp] theorem State.withDraws_clearFlag (s : State) (d : Nat) : (s.withDraws d).clearFlag = s.clearFlag := rfl
@[simp] theorem State.withDraws_acc (s : State) (d : Nat) : (s.withDraws d).acc = s.acc := rfl
@[simp] theorem State.withDraws_bits (s : State) (d : Nat) : (s.withDraws d).bits = s.bits := rfl
@[simp] theorem State.withDraws_aCount (s : State) (d : Nat) : (s.withDraws d).aCount = s.aCount := rfl
@[simp] theorem State.withDraws_outCount (s : State) (d : Nat) : (s.withDraws d).outCount = s.outCount := rfl
@[simp] theorem State.withDraws_errCode (s : State) (d : Nat) : (s.withDraws d).errCode = s.errCode := rfl
@[simp] theorem State.withDraws_reason (s : State) (d : Nat) : (s.withDraws d).reason = s.reason := rfl
@[simp] theorem State.withDraws_ht (s : State) (d : Nat) : (s.withDraws d).ht = s.ht := rfl
@[simp] theorem State.withDraws_ct (s : State) (d : Nat) : (s.withDraws d).ct = s.ct := rfl
@[simp] theorem State.withDraws_bb (s : State) (d : Nat) : (s.withDraws d).bb = s.bb := rfl
@[simp] theorem State.withDraws_pix (s : State) (d : Nat) : (s.withDraws d).pix = s.pix := rfl
@[simp] theorem State.withDraws_sinkOut (s : State) (d : Nat) : (s.withDraws d).sinkOut = s.sinkOut := rfl
@[simp] theorem State.withDraws_pixDirty (s : State) (d : Nat) : (s.withDraws d).pixDirty = s.pixDirty := rfl
@[simp] theorem State.withDraws_sinkAnswers (s : State) (d : Nat) : (s.withDraws d).sinkAnswers = s.sinkAnswers := rfl
@[simp] theorem State.withDraws_inputs (s : State) (d : Nat) : (s.withDraws d).inputs = s.inputs := rfl
@[simp] theorem State.withDraws_rdata (s : State) (d : Nat) : (s.withDraws d).rdata = s.rdata := rfl
@[simp] theorem State.withDraws_result (s : State) (d : Nat) : (s.withDraws d).result = s.result := rfl
@[simp] theorem State.withDraws_stuck (s : State) (d : Nat) : (s.withDraws d).stuck = s.stuck := rfl
@[simp] theorem State.withDraws_draws (s : State) (d : Nat) : (s.withDraws d).draws = d := rfl

@[simp] theorem State.withInputs_state (s : State) (m : List Input) : (s.withInputs m).state = s.state := rfl
@[simp] theorem State.withInputs_startReq (s : State) (m : List Input) : (s.withInputs m).startReq = s.startReq := rfl
@[simp] theorem State.withInputs_width (s : State) (m : List Input) : (s.withInputs m).width = s.width := rfl
@[simp] theorem State.withInputs_height (s : State) (m : List Input) : (s.withInputs m).height = s.height := rfl
@[simp] theorem State.withInputs_depth (s : State) (m : List Input) : (s.withInputs m).depth = s.depth := rfl
@[simp] theorem State.withInputs_buflen (s : State) (m : List Input) : (s.withInputs m).buflen = s.buflen := rfl
@[simp] theorem State.withInputs_lWidth (s : State) (m : List Input) : (s.withInputs m).lWidth = s.lWidth := rfl
@[simp] theorem State.withInputs_lHeight (s : State) (m : List Input) : (s.withInputs m).lHeight = s.lHeight := rfl
@[simp] theorem State.withInputs_lDepth (s : State) (m : List Input) : (s.withInputs m).lDepth = s.lDepth := rfl
@[simp] theorem State.withInputs_lBuflen (s : State) (m : List Input) : (s.withInputs m).lBuflen = s.lBuflen := rfl
@[simp] theorem State.withInputs_init (s : State) (m : List Input) : (s.withInputs m).init = s.init := rfl
@[simp] theorem State.withInputs_clear (s : State) (m : List Input) : (s.withInputs m).clear = s.clear := rfl
@[simp] theorem State.withInputs_eofc (s : State) (m : List Input) : (s.withInputs m).eofc = s.eofc := rfl
@[simp] theorem State.withInputs_n (s : State) (m : List Input) : (s.withInputs m).n = s.n := rfl
@[simp] theorem State.withInputs_cursor (s : State) (m : List Input) : (s.withInputs m).cursor = s.cursor := rfl
@[simp] theorem State.withInputs_ent (s : State) (m : List Input) : (s.withInputs m).ent = s.ent := rfl
@[simp] theorem State.withInputs_entValid (s : State) (m : List Input) : (s.withInputs m).entValid = s.entValid := rfl
@[simp] theorem State.withInputs_nBits (s : State) (m : List Input) : (s.withInputs m).nBits = s.nBits := rfl
@[simp] theorem State.withInputs_maxCode (s : State) (m : List Input) : (s.withInputs m).maxCode = s.maxCode := rfl
@[simp] theorem State.withInputs_freeEnt (s : State) (m : List Input) : (s.withInputs m).freeEnt = s.freeEnt := rfl
@[simp] theorem State.withInputs_clearFlag (s : State) (m : List Input) : (s.withInputs m).clearFlag = s.clearFlag := rfl
@[simp] theorem State.withInputs_acc (s : State) (m : List Input) : (s.withInputs m).acc = s.acc := rfl
@[simp] theorem State.withInputs_bits (s : State) (m : List Input) : (s.withInputs m).bits = s.bits := rfl
@[simp] theorem State.withInputs_aCount (s : State) (m : List Input) : (s.withInputs m).aCount = s.aCount := rfl
@[simp] theorem State.withInputs_outCount (s : State) (m : List Input) : (s.withInputs m).outCount = s.outCount := rfl
@[simp] theorem State.withInputs_errCode (s : State) (m : List Input) : (s.withInputs m).errCode = s.errCode := rfl
@[simp] theorem State.withInputs_reason (s : State) (m : List Input) : (s.withInputs m).reason = s.reason := rfl
@[simp] theorem State.withInputs_ht (s : State) (m : List Input) : (s.withInputs m).ht = s.ht := rfl
@[simp] theorem State.withInputs_ct (s : State) (m : List Input) : (s.withInputs m).ct = s.ct := rfl
@[simp] theorem State.withInputs_bb (s : State) (m : List Input) : (s.withInputs m).bb = s.bb := rfl
@[simp] theorem State.withInputs_pix (s : State) (m : List Input) : (s.withInputs m).pix = s.pix := rfl
@[simp] theorem State.withInputs_sinkOut (s : State) (m : List Input) : (s.withInputs m).sinkOut = s.sinkOut := rfl
@[simp] theorem State.withInputs_pixDirty (s : State) (m : List Input) : (s.withInputs m).pixDirty = s.pixDirty := rfl
@[simp] theorem State.withInputs_sinkAnswers (s : State) (m : List Input) : (s.withInputs m).sinkAnswers = s.sinkAnswers := rfl
@[simp] theorem State.withInputs_inputs (s : State) (m : List Input) : (s.withInputs m).inputs = m := rfl
@[simp] theorem State.withInputs_rdata (s : State) (m : List Input) : (s.withInputs m).rdata = s.rdata := rfl
@[simp] theorem State.withInputs_result (s : State) (m : List Input) : (s.withInputs m).result = s.result := rfl
@[simp] theorem State.withInputs_stuck (s : State) (m : List Input) : (s.withInputs m).stuck = s.stuck := rfl
@[simp] theorem State.withInputs_draws (s : State) (m : List Input) : (s.withInputs m).draws = s.draws := rfl

@[simp] theorem State.afterBytes_state (s : State) (bs : List Byte) : (s.afterBytes bs).state = s.state := rfl
@[simp] theorem State.afterBytes_startReq (s : State) (bs : List Byte) : (s.afterBytes bs).startReq = s.startReq := rfl
@[simp] theorem State.afterBytes_width (s : State) (bs : List Byte) : (s.afterBytes bs).width = s.width := rfl
@[simp] theorem State.afterBytes_height (s : State) (bs : List Byte) : (s.afterBytes bs).height = s.height := rfl
@[simp] theorem State.afterBytes_depth (s : State) (bs : List Byte) : (s.afterBytes bs).depth = s.depth := rfl
@[simp] theorem State.afterBytes_buflen (s : State) (bs : List Byte) : (s.afterBytes bs).buflen = s.buflen := rfl
@[simp] theorem State.afterBytes_lWidth (s : State) (bs : List Byte) : (s.afterBytes bs).lWidth = s.lWidth := rfl
@[simp] theorem State.afterBytes_lHeight (s : State) (bs : List Byte) : (s.afterBytes bs).lHeight = s.lHeight := rfl
@[simp] theorem State.afterBytes_lDepth (s : State) (bs : List Byte) : (s.afterBytes bs).lDepth = s.lDepth := rfl
@[simp] theorem State.afterBytes_lBuflen (s : State) (bs : List Byte) : (s.afterBytes bs).lBuflen = s.lBuflen := rfl
@[simp] theorem State.afterBytes_init (s : State) (bs : List Byte) : (s.afterBytes bs).init = s.init := rfl
@[simp] theorem State.afterBytes_clear (s : State) (bs : List Byte) : (s.afterBytes bs).clear = s.clear := rfl
@[simp] theorem State.afterBytes_eofc (s : State) (bs : List Byte) : (s.afterBytes bs).eofc = s.eofc := rfl
@[simp] theorem State.afterBytes_n (s : State) (bs : List Byte) : (s.afterBytes bs).n = s.n := rfl
@[simp] theorem State.afterBytes_cursor (s : State) (bs : List Byte) : (s.afterBytes bs).cursor = s.cursor := rfl
@[simp] theorem State.afterBytes_ent (s : State) (bs : List Byte) : (s.afterBytes bs).ent = s.ent := rfl
@[simp] theorem State.afterBytes_entValid (s : State) (bs : List Byte) : (s.afterBytes bs).entValid = s.entValid := rfl
@[simp] theorem State.afterBytes_nBits (s : State) (bs : List Byte) : (s.afterBytes bs).nBits = s.nBits := rfl
@[simp] theorem State.afterBytes_maxCode (s : State) (bs : List Byte) : (s.afterBytes bs).maxCode = s.maxCode := rfl
@[simp] theorem State.afterBytes_freeEnt (s : State) (bs : List Byte) : (s.afterBytes bs).freeEnt = s.freeEnt := rfl
@[simp] theorem State.afterBytes_clearFlag (s : State) (bs : List Byte) : (s.afterBytes bs).clearFlag = s.clearFlag := rfl
@[simp] theorem State.afterBytes_acc (s : State) (bs : List Byte) : (s.afterBytes bs).acc = s.acc := rfl
@[simp] theorem State.afterBytes_bits (s : State) (bs : List Byte) : (s.afterBytes bs).bits = s.bits := rfl
@[simp] theorem State.afterBytes_aCount (s : State) (bs : List Byte) : (s.afterBytes bs).aCount = s.aCount := rfl
@[simp] theorem State.afterBytes_outCount (s : State) (bs : List Byte) : (s.afterBytes bs).outCount = s.outCount + BitVec.ofNat 32 bs.length := rfl
@[simp] theorem State.afterBytes_errCode (s : State) (bs : List Byte) : (s.afterBytes bs).errCode = s.errCode := rfl
@[simp] theorem State.afterBytes_reason (s : State) (bs : List Byte) : (s.afterBytes bs).reason = s.reason := rfl
@[simp] theorem State.afterBytes_ht (s : State) (bs : List Byte) : (s.afterBytes bs).ht = s.ht := rfl
@[simp] theorem State.afterBytes_ct (s : State) (bs : List Byte) : (s.afterBytes bs).ct = s.ct := rfl
@[simp] theorem State.afterBytes_bb (s : State) (bs : List Byte) : (s.afterBytes bs).bb = s.bb := rfl
@[simp] theorem State.afterBytes_pix (s : State) (bs : List Byte) : (s.afterBytes bs).pix = s.pix := rfl
@[simp] theorem State.afterBytes_sinkOut (s : State) (bs : List Byte) : (s.afterBytes bs).sinkOut = s.sinkOut ++ bs := rfl
@[simp] theorem State.afterBytes_pixDirty (s : State) (bs : List Byte) : (s.afterBytes bs).pixDirty = s.pixDirty := rfl
@[simp] theorem State.afterBytes_sinkAnswers (s : State) (bs : List Byte) : (s.afterBytes bs).sinkAnswers = s.sinkAnswers.drop bs.length := rfl
@[simp] theorem State.afterBytes_inputs (s : State) (bs : List Byte) : (s.afterBytes bs).inputs = s.inputs := rfl
@[simp] theorem State.afterBytes_rdata (s : State) (bs : List Byte) : (s.afterBytes bs).rdata = s.rdata := rfl
@[simp] theorem State.afterBytes_result (s : State) (bs : List Byte) : (s.afterBytes bs).result = s.result := rfl
@[simp] theorem State.afterBytes_stuck (s : State) (bs : List Byte) : (s.afterBytes bs).stuck = s.stuck := rfl
@[simp] theorem State.afterBytes_draws (s : State) (bs : List Byte) : (s.afterBytes bs).draws = s.draws := rfl

end Sys2Proof.Machine
end

