-- ==== Sys2Proof/Laws/Memory.lean ====
section
/-! SUPPORT. PIX: what a read gives after a write, and that writing keeps the canonical form. The private memories: what an entry
holds after a write. -/

namespace Sys2Proof.Machine

/-- A read after a write to the same address gives the byte written, in a memory in canonical form. -/
theorem Memory.read_write_same (m : Memory) (a : Nat) (b : Byte) (h : m.wf = true) : (m.write a b).read a = b := by
  induction m with
  | nil => by_cases hb : b = Config.pixUnwritten <;> simp [Memory.write, Memory.read, hb]
  | cons c rest ih =>
    obtain ⟨k, v⟩ := c
    simp only [Memory.wf, Bool.and_eq_true, List.all_eq_true, decide_eq_true_eq] at h
    have absent : ∀ l : Memory, (∀ c ∈ l, a < c.1) → l.read a = Config.pixUnwritten := by
      intro l hl
      induction l with
      | nil => rfl
      | cons d l ihl =>
        have := hl d (by simp)
        simp only [Memory.read]
        rw [if_neg (by omega)]
        exact ihl fun c hc => hl c (by simp [hc])
    simp only [Memory.write]
    split_ifs with h1 h2 h3 h4
    · subst h2; exact absent _ (by
        intro c hc
        rcases List.mem_cons.1 hc with rfl | hc
        · exact h1
        · exact lt_trans h1 (h.1.2 c hc))
    · simp [Memory.read]
    · subst h3 h4; exact absent _ fun c hc => h.1.2 c hc
    · simp [Memory.read]
    · simp only [Memory.read]
      rw [if_neg (by omega)]
      exact ih h.2

/-- A write leaves what every other address reads as. -/
theorem Memory.read_write_other (m : Memory) (a a' : Nat) (b : Byte) (h : a' ≠ a) :
    (m.write a b).read a' = m.read a' := by
  induction m with
  | nil => by_cases hb : b = Config.pixUnwritten <;> simp [Memory.write, Memory.read, hb, Ne.symm h]
  | cons c rest ih =>
    obtain ⟨k, v⟩ := c
    simp only [Memory.write]
    split_ifs with h1 h2 h3 h4
    · rfl
    · simp [Memory.read, Ne.symm h]
    · subst h3; simp [Memory.read, Ne.symm h]
    · subst h3; simp [Memory.read, Ne.symm h]
    · simp only [Memory.read]; split_ifs
      · rfl
      · exact ih

/-- An address below every listed one stays so after a write above it. -/
theorem Memory.write_above (m : Memory) (k a : Nat) (b : Byte) (hk : k < a) (h : ∀ c ∈ m, k < c.1) :
    ∀ c ∈ m.write a b, k < c.1 := by
  induction m with
  | nil => intro c hc; simp only [Memory.write] at hc; split_ifs at hc <;> simp_all
  | cons d rest ih =>
    obtain ⟨k', v⟩ := d
    have hr : ∀ c ∈ rest, k < c.1 := fun c hc => h c (by simp [hc])
    have hd : k < k' := h (k', v) (by simp)
    intro c hc
    simp only [Memory.write] at hc
    split_ifs at hc
    · exact h c hc
    · rcases List.mem_cons.1 hc with rfl | hc
      · exact hk
      · exact h c hc
    · exact hr c hc
    · rcases List.mem_cons.1 hc with rfl | hc
      · exact hk
      · exact hr c hc
    · rcases List.mem_cons.1 hc with rfl | hc
      · exact hd
      · exact ih hr c hc

/-- A write inside the address space keeps the canonical form. -/
theorem Memory.write_wf (m : Memory) (a : Nat) (b : Byte) (ha : a < 2 ^ 32) (h : m.wf = true) : (m.write a b).wf = true := by
  induction m with
  | nil => by_cases hb : b = Config.pixUnwritten <;> simp_all [Memory.write, Memory.wf]
  | cons c rest ih =>
    obtain ⟨k, v⟩ := c
    have h' := h
    simp only [Memory.wf, Bool.and_eq_true, List.all_eq_true, decide_eq_true_eq] at h'
    obtain ⟨⟨⟨hk, hv⟩, hall⟩, hr⟩ := h'
    simp only [Memory.write]
    split_ifs with h1 h2 h3 h4
    · exact h
    · rw [Memory.wf, Bool.and_eq_true]
      refine ⟨?_, h⟩
      simp only [Bool.and_eq_true, List.all_eq_true, decide_eq_true_eq, bne_iff_ne, ne_eq]
      refine ⟨⟨ha, h2⟩, fun c hc => ?_⟩
      rcases List.mem_cons.1 hc with rfl | hc
      · exact h1
      · exact lt_trans h1 (hall c hc)
    · exact hr
    · rw [Memory.wf, Bool.and_eq_true]
      refine ⟨?_, hr⟩
      simp only [Bool.and_eq_true, List.all_eq_true, decide_eq_true_eq, bne_iff_ne, ne_eq]
      subst h3
      exact ⟨⟨ha, h4⟩, hall⟩
    · rw [Memory.wf, Bool.and_eq_true]
      refine ⟨?_, ih hr⟩
      simp only [Bool.and_eq_true, List.all_eq_true, decide_eq_true_eq]
      exact ⟨⟨hk, hv⟩, Memory.write_above rest k a b (by omega) hall⟩

/-- Nothing written is in canonical form, so State.reset's PIX is. -/
theorem State.reset_pix_wf : State.reset.pix.wf = true := rfl

/-- An entry of a private memory after a write: the new one at the index written, the old one elsewhere. -/
theorem getElem_putAt {α : Type} {n : Nat} (v : Vector α n) (i j : Nat) (x : α) (hj : j < n) :
    (putAt v i x)[j] = if i = j then x else v[j] := by
  unfold putAt
  by_cases hi : i < n
  · simp [hi, Vector.getElem_set]
  · simp only [hi, dite_false]
    rw [if_neg (by omega)]

@[simp] theorem State.key_dictClear (s : State) (i : Nat) : s.dictClear.key i = none := by
  simp [State.key]

@[simp] theorem State.codeAt_dictClear (s : State) (i : Nat) : s.dictClear.codeAt i = s.codeAt i := rfl

theorem State.key_dictInsert (s : State) (i j : Nat) (k : Key) (c : Code) (hi : i < Config.hSize) :
    (s.dictInsert i k c).key j = if i = j then some k else s.key j := by
  unfold State.key
  by_cases hj : j < Config.hSize
  · simp only [hj, dite_true, State.dictInsert_ht, getElem_putAt]
  · simp only [hj, dite_false]
    rw [if_neg (by omega)]

theorem State.codeAt_dictInsert (s : State) (i j : Nat) (k : Key) (c : Code) (hi : i < Config.hSize) :
    (s.dictInsert i k c).codeAt j = if i = j then c else s.codeAt j := by
  unfold State.codeAt
  by_cases hj : j < Config.hSize
  · simp only [hj, dite_true, State.dictInsert_ct, getElem_putAt]
  · simp only [hj, dite_false]
    rw [if_neg (by omega)]

end Sys2Proof.Machine
end

