-- ==== Sys2Proof/Laws/Dictionary.lean ====
section
/-! SUPPORT. The dictionary: where a probe can go and what a lookup's answer says about the tables (42_dictionary.md rule R133). -/

namespace Sys2Proof.Machine

/-- The primary slot is below 4096 (30_encoding.md rule R97). -/
theorem primarySlot_lt (ent : Code) (c : Byte) : (primarySlot ent c).toNat < 4096 := by
  have h : (c.toNat <<< 4 ^^^ ent.toNat) < 2 ^ 12 :=
    Nat.xor_lt_two_pow (by have := c.isLt; simp only [Nat.shiftLeft_eq]; omega) ent.isLt
  simp only [primarySlot, Config.hShift, BitVec.toNat_ofNat]
  omega

theorem displacement_range {i : Nat} (h : i < Config.hSize) : 1 ≤ displacement i ∧ displacement i < Config.hSize := by
  unfold displacement
  split_ifs <;> simp only [Config.hSize] at * <;> omega

/-- Every probe index is a slot of the table (R133). -/
theorem probeNext_lt {disp i : Nat} (h1 : 1 ≤ disp) (h2 : i < Config.hSize) : probeNext disp i < Config.hSize := by
  unfold probeNext
  split_ifs <;> omega

theorem slot_toNat {j : Nat} (h : j < Config.hSize) : (BitVec.ofNat 13 j : Slot).toNat = j := by
  simp only [Config.hSize] at h
  simp only [BitVec.toNat_ofNat]
  omega

/-- What a lookup's answer says (R133): a hit names a slot with the pair's key and its code, a miss an EMPTY slot. -/
def State.answers (s : State) (fcode : Key) : Probe → Prop
  | .hit code slot => slot.toNat < Config.hSize ∧ s.key slot.toNat = some fcode ∧ code = s.codeAt slot.toNat
  | .miss slot => slot.toNat < Config.hSize ∧ s.key slot.toNat = none
  | .endless => True

theorem State.probe_answers (s : State) (fcode : Key) (disp fuel i : Nat) (h1 : 1 ≤ disp) (h2 : i < Config.hSize) :
    s.answers fcode (s.probe fcode disp fuel i) := by
  induction fuel generalizing i with
  | zero => trivial
  | succ fuel ih =>
    have hj := probeNext_lt h1 h2
    have hs := slot_toNat hj
    simp only [State.probe]
    split_ifs with hk hn
    · exact ⟨by rw [hs]; exact hj, by rw [hs]; exact hk, by rw [hs]⟩
    · exact ⟨by rw [hs]; exact hj, by rw [hs]; exact hn⟩
    · exact ih _ hj

/-- DICT_LOOKUP's answer is true of the tables. -/
theorem State.dictLookup_answers (s : State) (ent : Code) (c : Byte) :
    s.answers (fcodeOf ent c) (s.dictLookup ent c) := by
  have hp := primarySlot_lt ent c
  have hi : (primarySlot ent c).toNat < Config.hSize := by simp only [Config.hSize]; omega
  simp only [State.dictLookup]
  split_ifs with hk hn
  · exact ⟨hi, hk, rfl⟩
  · exact ⟨hi, hn⟩
  · exact s.probe_answers _ _ _ _ (displacement_range hi).1 hi

/-- An empty table misses at the primary slot (R133). -/
theorem State.dictLookup_empty (s : State) (ent : Code) (c : Byte) (h : ∀ i, s.key i = none) :
    s.dictLookup ent c = .miss (primarySlot ent c) := by
  simp [State.dictLookup, h]

/-- A lookup depends on HT and CT alone (42_dictionary.md rule R138: it writes no state). -/
theorem State.dictLookup_congr (s t : State) (ent : Code) (c : Byte) (hk : t.ht = s.ht) (hc : t.ct = s.ct) :
    t.dictLookup ent c = s.dictLookup ent c := by
  have key : ∀ i, t.key i = s.key i := fun i => by simp [State.key, hk]
  have code : ∀ i, t.codeAt i = s.codeAt i := fun i => by simp [State.codeAt, hc]
  have probe : ∀ f d n i, t.probe f d n i = s.probe f d n i := by
    intro f d n
    induction n with
    | zero => intro i; rfl
    | succ n ih => intro i; simp [State.probe, key, code, ih]
  simp [State.dictLookup, key, code, probe]

end Sys2Proof.Machine
end

