-- ==== Sys2Proof/Laws/Flow.lean ====
section
/-! SUPPORT. What the shared operations can do, said once: every state they reach keeps everything but the packer's, the block's and
the sink's fields, and the sink only gains bytes; and where the sink accepts, exactly which bytes. -/

namespace Sys2Proof.Machine

/-- P holds of the state in which the actions ended, however they ended. -/
def Flow.All (P : State → Prop) : Flow → Prop
  | .ok s => P s
  | .raised s => P s
  | .stuck _ s => P s

theorem Flow.andThen_all {P : State → Prop} {r : Flow} {f : State → Flow} (hr : r.All P)
    (hf : ∀ s, P s → (f s).All P) : (r.andThen f).All P := by
  cases r with
  | ok s => exact hf s hr
  | raised s => exact hr
  | stuck w s => exact hr

theorem Flow.All.imp {P Q : State → Prop} {r : Flow} (h : ∀ s, P s → Q s) (hr : r.All P) : r.All Q := by
  cases r <;> exact h _ hr

@[simp] theorem Flow.andThen_ok (s : State) (f : State → Flow) : (Flow.ok s).andThen f = f s := rfl

@[simp] theorem Flow.andThen_raised (s : State) (f : State → Flow) : (Flow.raised s).andThen f = .raised s := rfl

@[simp] theorem Flow.andThen_stuck (w : Stuck) (s : State) (f : State → Flow) :
    (Flow.stuck w s).andThen f = .stuck w s := rfl

/-- A state without the fields an emission may change. -/
def State.emitView (s : State) : State :=
  { s with
    nBits := 0#4
    maxCode := 0#12
    clearFlag := false
    acc := 0#19
    bits := 0#5
    aCount := 0#8
    outCount := 0#32
    bb := Vector.replicate Config.blockMax 0#8
    sinkOut := []
    sinkAnswers := []
    draws := 0 }

/-- From s an emission, or a part of it, has led to t: everything outside the packer, the block and the sink is as before, and the
bytes the sink accepted were added at the end and counted. -/
structure Emits (s t : State) : Prop where
  frame : t.emitView = s.emitView
  bytes : ∃ bs : List Byte, t.sinkOut = s.sinkOut ++ bs ∧ t.outCount = s.outCount + BitVec.ofNat 32 bs.length

theorem Emits.refl (s : State) : Emits s s := ⟨rfl, [], by simp⟩

theorem Emits.trans {s t u : State} (h1 : Emits s t) (h2 : Emits t u) : Emits s u := by
  obtain ⟨f1, b1, o1, c1⟩ := h1
  obtain ⟨f2, b2, o2, c2⟩ := h2
  refine ⟨f2.trans f1, b1 ++ b2, by simp [o2, o1], ?_⟩
  rw [c2, c1, List.length_append, BitVec.ofNat_add, BitVec.add_assoc]

/-- A change of the packer's and the block's fields alone is part of an emission. -/
theorem Emits.of_frame {s t : State} (h : t.emitView = s.emitView) (ho : t.sinkOut = s.sinkOut)
    (hc : t.outCount = s.outCount) : Emits s t := ⟨h, [], by simp [ho], by simp [hc]⟩

theorem Emits.andThen {s : State} {r : Flow} {f : State → Flow} (hr : r.All (Emits s))
    (hf : ∀ t, (f t).All (Emits t)) : (r.andThen f).All (Emits s) :=
  Flow.andThen_all hr fun t ht => (hf t).imp fun _ hu => ht.trans hu

theorem State.takeAnswer_emits (s : State) : Emits s s.takeAnswer.2 := by
  unfold State.takeAnswer
  split <;> exact Emits.of_frame rfl rfl rfl

theorem State.sinkWrite_emits (s : State) (b : Byte) : (s.sinkWrite b).All (Emits s) := by
  have h := s.takeAnswer_emits
  unfold State.sinkWrite
  split <;> rename_i t heq <;> simp only [heq] at h
  · exact h.trans ⟨rfl, [b], by simp⟩
  · exact h
  · exact h

theorem State.sinkWriteAll_emits (s : State) (bs : List Byte) : (s.sinkWriteAll bs).All (Emits s) := by
  induction bs generalizing s with
  | nil => exact Emits.refl s
  | cons b rest ih => exact Emits.andThen (s.sinkWrite_emits b) fun t => ih t

theorem State.blockFlush_emits (s : State) : s.blockFlush.All (Emits s) := by
  unfold State.blockFlush
  split
  · exact Emits.andThen (s.sinkWriteAll_emits _) fun t => Emits.of_frame rfl rfl rfl
  · exact Emits.refl s

theorem State.byteOut_emits (s : State) (b : Byte) : (s.byteOut b).All (Emits s) := by
  unfold State.byteOut
  have h : Emits s (s.pushByte b) := Emits.of_frame rfl rfl rfl
  split
  · exact (State.blockFlush_emits _).imp fun _ hu => h.trans hu
  · exact h

theorem State.drain_emits (k : Nat) (s : State) : (s.drain k).All (Emits s) := by
  induction k generalizing s with
  | zero => exact Emits.refl s
  | succ k ih =>
    refine Emits.andThen (s.byteOut_emits _) fun t => (ih _).imp fun u hu => ?_
    exact Emits.trans (t := t.dropByte) (Emits.of_frame rfl rfl rfl) hu

theorem State.updateWidth_emits (s : State) : Emits s s.updateWidth := by
  unfold State.updateWidth
  split_ifs <;> exact Emits.of_frame rfl rfl rfl

theorem State.eofFlush_emits (s : State) : s.eofFlush.All (Emits s) := by
  unfold State.eofFlush
  refine Emits.andThen ?_ fun t => (State.blockFlush_emits _).imp fun u hu => ?_
  · split
    · exact s.byteOut_emits _
    · exact Emits.refl s
  · exact Emits.trans (t := t.clearAcc) (Emits.of_frame rfl rfl rfl) hu

/-- EMIT (44_bit_packer.md rule R190): all it can change, however it ends. -/
theorem State.emit_emits (s : State) (code : Code) : (s.emit code).All (Emits s) := by
  unfold State.emit
  have h : Emits s (s.appendCode code) := Emits.of_frame rfl rfl rfl
  refine Emits.andThen ((State.drain_emits _ _).imp fun _ hu => h.trans hu) fun t => ?_
  dsimp only
  split_ifs
  · exact (State.eofFlush_emits _).imp fun _ hu => t.updateWidth_emits.trans hu
  · exact t.updateWidth_emits

/-- How an operation ends (60_exceptions.md rule R244, log 5): with the state its actions reached, with the entry of SinkFailure, or
inside a step that does not end. -/
theorem Flow.settle_cases (r : Flow) (before : State) :
    (∃ t, r = .ok t ∧ r.settle before = t) ∨
    (∃ t, r = .raised t ∧ r.settle before = t.raise .sinkFailure) ∨
    (∃ w t, r = .stuck w t ∧ r.settle before = before.enterStuck t w) := by
  cases r with
  | ok t => exact .inl ⟨t, rfl, rfl⟩
  | raised t => exact .inr (.inl ⟨t, rfl, rfl⟩)
  | stuck w t => exact .inr (.inr ⟨w, t, rfl, rfl⟩)

/-! ### Where the sink accepts -/

theorem State.sinkWrite_accept (s : State) (b : Byte) (h : s.accepts 1) :
    s.sinkWrite b = .ok (s.afterBytes [b]) := by
  unfold State.accepts at h
  unfold State.sinkWrite State.takeAnswer
  cases hs : s.sinkAnswers with
  | nil => simp [hs] at h
  | cons a rest =>
    simp [hs] at h
    subst h
    simp [State.afterBytes, hs]

theorem State.accepts_drop {s : State} {k m : Nat} (h : s.accepts (k + m)) :
    (s.sinkAnswers.drop k).take m = List.replicate m SinkAnswer.accept := by
  have := congrArg (List.drop k) h
  rwa [List.drop_take, Nat.add_sub_cancel_left, List.drop_replicate, Nat.add_sub_cancel_left] at this

theorem State.accepts_le {s : State} {k m : Nat} (h : s.accepts m) (hk : k ≤ m) : s.accepts k := by
  have := congrArg (List.take k) h
  rwa [List.take_take, List.take_replicate, Nat.min_eq_left hk] at this

/-- The bytes bs, all accepted, are added at the end, in order, and counted (45_block_writer.md rule R216, 20_memory.md rule R74). -/
theorem State.sinkWriteAll_accept (s : State) (bs : List Byte) (h : s.accepts bs.length) :
    s.sinkWriteAll bs = .ok (s.afterBytes bs) := by
  induction bs generalizing s with
  | nil => simp [State.sinkWriteAll, State.afterBytes]
  | cons b rest ih =>
    have h1 : s.accepts 1 := s.accepts_le h (by simp)
    have h2 : (s.afterBytes [b]).accepts rest.length := by
      have h' : s.accepts (1 + rest.length) := by rwa [List.length_cons, Nat.add_comm] at h
      exact State.accepts_drop h'
    rw [State.sinkWriteAll, s.sinkWrite_accept b h1, Flow.andThen_ok, ih _ h2]
    simp only [State.afterBytes, List.length_cons, List.length_nil, List.drop_drop, List.append_assoc, List.cons_append,
      List.nil_append, BitVec.add_assoc, ← BitVec.ofNat_add]
    rw [Nat.zero_add, Nat.add_comm 1 rest.length]

@[simp] theorem State.pendingBytes_length (s : State) : s.pendingBytes.length = s.aCount.toNat := by
  simp [State.pendingBytes]

/-- BLOCK_FLUSH (45_block_writer.md rule R211) where the sink accepts: the length byte and the data bytes, and an empty block. -/
theorem State.blockFlush_accept (s : State) (h0 : 0 < s.aCount.toNat) (h : s.accepts (s.aCount.toNat + 1)) :
    s.blockFlush = .ok { s.afterBytes (s.aCount :: s.pendingBytes) with aCount := 0#8 } := by
  unfold State.blockFlush
  rw [if_pos h0, s.sinkWriteAll_accept _ (by simpa using h), Flow.andThen_ok]

end Sys2Proof.Machine
end

