-- ==== Sys2Proof/Laws/ErrCode.lean ====
section
/-! SUPPORT. ERRCODE is written by the raise and by START_OK only (10_state.md rule R35): the emitting operations neither read nor write
it, so with another ERRCODE they end in the same way, in a state that differs in ERRCODE alone. -/

namespace Sys2Proof.Machine

/-- The state with another ERRCODE. -/
def State.setErr (s : State) (e : BitVec 4) : State := { s with errCode := e }

/-- The state in which the actions ended, with another ERRCODE. -/
def Flow.setErr (r : Flow) (e : BitVec 4) : Flow :=
  match r with
  | .ok s => .ok (s.setErr e)
  | .raised s => .raised (s.setErr e)
  | .stuck w s => .stuck w (s.setErr e)

theorem Flow.andThen_setErr (r : Flow) (f : State → Flow) (e : BitVec 4) (hf : ∀ s, f (s.setErr e) = (f s).setErr e) :
    (r.setErr e).andThen f = (r.andThen f).setErr e := by
  cases r with
  | ok s => exact hf s
  | raised s => rfl
  | stuck w s => rfl

theorem State.sinkWrite_setErr (s : State) (b : Byte) (e : BitVec 4) : (s.setErr e).sinkWrite b = (s.sinkWrite b).setErr e := by
  have h : (s.setErr e).takeAnswer = (s.takeAnswer.1, s.takeAnswer.2.setErr e) := by
    unfold State.takeAnswer
    change (match s.sinkAnswers with | _ :: _ => _ | [] => _) = _
    cases s.sinkAnswers <;> rfl
  unfold State.sinkWrite
  rw [h]
  rcases s.takeAnswer with ⟨a, t⟩
  cases a <;> rfl

theorem State.sinkWriteAll_setErr (s : State) (bs : List Byte) (e : BitVec 4) :
    (s.setErr e).sinkWriteAll bs = (s.sinkWriteAll bs).setErr e := by
  induction bs generalizing s with
  | nil => rfl
  | cons b rest ih => rw [State.sinkWriteAll, s.sinkWrite_setErr, Flow.andThen_setErr _ _ _ fun t => ih t, State.sinkWriteAll]

theorem State.blockFlush_setErr (s : State) (e : BitVec 4) : (s.setErr e).blockFlush = s.blockFlush.setErr e := by
  unfold State.blockFlush
  change (if 0 < s.aCount.toNat then ((s.setErr e).sinkWriteAll (s.aCount :: s.pendingBytes)).andThen _ else _) = _
  split
  · rw [s.sinkWriteAll_setErr, Flow.andThen_setErr _ _ _ fun _ => rfl]
  · rfl

theorem State.byteOut_setErr (s : State) (b : Byte) (e : BitVec 4) : (s.setErr e).byteOut b = (s.byteOut b).setErr e := by
  unfold State.byteOut
  change (if (s.pushByte b).aCount.toNat = Config.blockMax then ((s.pushByte b).setErr e).blockFlush else _) = _
  split
  · exact (s.pushByte b).blockFlush_setErr e
  · rfl

theorem State.drain_setErr (k : Nat) (s : State) (e : BitVec 4) : (s.setErr e).drain k = (s.drain k).setErr e := by
  induction k generalizing s with
  | zero => rfl
  | succ k ih =>
    rw [State.drain, State.drain]
    change ((s.setErr e).byteOut (s.acc.setWidth 8)).andThen _ = _
    rw [s.byteOut_setErr, Flow.andThen_setErr _ _ _ fun t => ih t.dropByte]

theorem State.updateWidth_setErr (s : State) (e : BitVec 4) : (s.setErr e).updateWidth = s.updateWidth.setErr e := by
  unfold State.updateWidth
  change (if s.clearFlag then _ else if s.maxCode.toNat < s.freeEnt.toNat ∧ s.nBits.toNat < Config.maxBits then _ else _) = _
  split_ifs <;> rfl

theorem State.eofFlush_setErr (s : State) (e : BitVec 4) : (s.setErr e).eofFlush = s.eofFlush.setErr e := by
  unfold State.eofFlush
  change (if 0 < s.bits.toNat then (s.setErr e).byteOut (s.acc.setWidth 8) else _).andThen _ = _
  split
  · rw [s.byteOut_setErr, Flow.andThen_setErr _ _ _ fun t => t.clearAcc.blockFlush_setErr e]
  · exact Flow.andThen_setErr (.ok s) _ _ fun t => t.clearAcc.blockFlush_setErr e

/-- EMIT (44_bit_packer.md rule R190) with another ERRCODE. -/
theorem State.emit_setErr (s : State) (code : Code) (e : BitVec 4) : (s.setErr e).emit code = (s.emit code).setErr e := by
  unfold State.emit
  change (((s.appendCode code).setErr e).drain ((s.appendCode code).bits.toNat / 8)).andThen _ = _
  rw [State.drain_setErr, Flow.andThen_setErr]
  intro t
  rw [State.updateWidth_setErr]
  change (if code.toNat = t.updateWidth.eofc.toNat then (t.updateWidth.setErr e).eofFlush else _) = _
  dsimp only
  split_ifs
  · exact t.updateWidth.eofFlush_setErr e
  · rfl

end Sys2Proof.Machine
end

