-- ==== Sys2Proof/Laws/Step.lean ====
section
/-! SUPPORT. What a step can be, said once: the engine's turn, the move fetched, and the pixel steps' beginning. -/

namespace Sys2Proof.Machine

/-- The engine's turn (43_driver.md rules R150, R159; 30_encoding.md rule R101). -/
theorem State.engineTurn_cases (s : State) :
    (∃ w, s.stuck = some w ∧ s.engineTurn = .move s) ∨
    (s.stuck = none ∧ 2 < s.errCode.toNat ∧ s.engineTurn = .fault .reservedErrCode) ∨
    (s.stuck = none ∧ s.dispatchVector = none ∧ s.engineTurn = .move (s.enterStuck s .probe)) ∨
    (∃ dv i, s.stuck = none ∧ s.dispatchVector = some dv ∧ decodeDispatch dv = .ok i ∧ s.engineTurn = .run i s) ∨
    (∃ dv, s.stuck = none ∧ s.dispatchVector = some dv ∧ decodeDispatch dv = .error .noStep ∧ s.engineTurn = .move s) ∨
    (∃ dv, s.stuck = none ∧ s.dispatchVector = some dv ∧ s.engineTurn = .fault .unreachableDispatch) := by
  unfold State.engineTurn
  cases hs : s.stuck with
  | some w => exact .inl ⟨w, rfl, rfl⟩
  | none =>
    by_cases he : errSinkFailure.toNat < s.errCode.toNat
    · exact .inr (.inl ⟨rfl, he, by simp only [if_pos he]⟩)
    · cases hd : s.dispatchVector with
      | none => exact .inr (.inr (.inl ⟨rfl, rfl, by simp only [if_neg he]⟩))
      | some dv =>
        cases hi : decodeDispatch dv with
        | ok i => exact .inr (.inr (.inr (.inl ⟨dv, i, rfl, rfl, hi, by simp only [if_neg he, hi]⟩)))
        | error r =>
          cases r with
          | noStep => exact .inr (.inr (.inr (.inr (.inl ⟨dv, rfl, rfl, hi, by simp only [if_neg he, hi]⟩))))
          | unreachableDispatch => exact .inr (.inr (.inr (.inr (.inr ⟨dv, rfl, rfl, by simp only [if_neg he, hi]⟩))))
          | signalLow => exact .inr (.inr (.inr (.inr (.inr ⟨dv, rfl, rfl, by simp only [if_neg he, hi]⟩))))
          | noSuchPrimitive => exact .inr (.inr (.inr (.inr (.inr ⟨dv, rfl, rfl, by simp only [if_neg he, hi]⟩))))
          | illFormedCall => exact .inr (.inr (.inr (.inr (.inr ⟨dv, rfl, rfl, by simp only [if_neg he, hi]⟩))))
          | tooWide => exact .inr (.inr (.inr (.inr (.inr ⟨dv, rfl, rfl, by simp only [if_neg he, hi]⟩))))

/-- What is fetched (20_memory.md rule R73). -/
theorem State.fetch_cases (s : State) :
    (s.inputs = [] ∧ s.fetch = s.engineTurn) ∨
    (∃ rest, s.inputs = .engine :: rest ∧ s.fetch = (s.withInputs rest).engineTurn) ∨
    (∃ hb rest, s.inputs = .host hb :: rest ∧ s.fetch = .run (decodeHost hb) (s.withInputs rest)) ∨
    (∃ rest, s.inputs = .reset :: rest ∧ s.fetch = .run .reset (s.withInputs rest)) ∨
    (∃ call rest, s.inputs = .primitive call :: rest ∧ s.fetch = (s.withInputs rest).callTurn call) ∨
    (∃ a b rest, s.inputs = .pixWrite a b :: rest ∧
      s.fetch = .move ((s.withInputs rest).hostPixWrite a b)) := by
  unfold State.fetch
  rcases hs : s.inputs with _ | ⟨m, rest⟩
  · exact .inl ⟨rfl, rfl⟩
  · cases m with
    | engine => exact .inr (.inl ⟨rest, rfl, rfl⟩)
    | host hb => exact .inr (.inr (.inl ⟨hb, rest, rfl, rfl⟩))
    | reset => exact .inr (.inr (.inr (.inl ⟨rest, rfl, rfl⟩)))
    | primitive call => exact .inr (.inr (.inr (.inr (.inl ⟨call, rest, rfl, rfl⟩))))
    | pixWrite a b => exact .inr (.inr (.inr (.inr (.inr ⟨a, b, rest, rfl, rfl⟩))))

/-- A read of PIX changes at most how many free values were drawn (20_memory.md rules R71, R75). -/
theorem State.pixRead_state (s : State) (a : Nat) : ∃ d, (s.pixRead a).2 = s.withDraws d := by
  unfold State.pixRead
  split_ifs
  · exact ⟨s.draws + 1, rfl⟩
  · exact ⟨s.draws, rfl⟩

/-- NEXT_PIXEL (41_pixel_source.md rule R120): the end of the stream changes nothing, and otherwise CURSOR advances by 1. -/
theorem State.nextPixel_cases (s : State) :
    (s.cursor = s.n ∧ s.nextPixel = (true, 0#8, s)) ∨
    (s.cursor ≠ s.n ∧ ∃ c d, c = (s.pixRead s.cursor.toNat).1 ∧
      s.nextPixel = (false, c, (s.withDraws d).advance)) := by
  unfold State.nextPixel
  by_cases h : s.cursor = s.n
  · exact .inl ⟨h, by simp [h]⟩
  · obtain ⟨d, hd⟩ := s.pixRead_state s.cursor.toNat
    exact .inr ⟨h, _, d, rfl, by simp [h, hd]⟩

/-- The beginning of a pixel step (43_driver.md rules R154 to R156) before the end of the stream: CURSOR has advanced, and the lookup's
answer is handed on. -/
theorem State.withLookup_eq (s : State) (k : Code → Slot → Key → Byte → State → Flow) (h : s.cursor ≠ s.n) :
    ∃ c d, c = (s.pixRead s.cursor.toNat).1 ∧
      s.withLookup k =
        match s.dictLookup s.ent c with
        | .hit code slot => k code slot (fcodeOf s.ent c) c (s.withDraws d).advance
        | .miss slot => k 0#12 slot (fcodeOf s.ent c) c (s.withDraws d).advance
        | .endless => .stuck .probe (s.withDraws d).advance := by
  rcases s.nextPixel_cases with ⟨he, _⟩ | ⟨_, c, d, hc, hn⟩
  · exact absurd he h
  · refine ⟨c, d, hc, ?_⟩
    unfold State.withLookup
    rw [hn]
    dsimp only
    rewrite [State.dictLookup_congr s (s.withDraws d).advance _ _ rfl rfl, State.advance_ent, State.withDraws_ent]
    cases s.dictLookup s.ent c <;> rfl

end Sys2Proof.Machine
end

