-- ==== Sys2Proof/Laws/PerInstr.lean ====
section
/-! SUPPORT. Per operation: its word is its row's in spec/opcode_table.json. -/

namespace Sys2Proof.Laws.TableWord

/-- The match and mask of an operation's row, copied from spec/opcode_table.json. -/
def row : Instr → Nat × Nat
  | .startInvalid => (0x08, 0x88)
  | .startOk => (0x88, 0x88)
  | .pixelHit => (0x21, 0x3F)
  | .pixelMissInsert => (0x01, 0x7F)
  | .pixelMissFull => (0x41, 0x7F)
  | .finish => (0x11, 0x1F)
  | .clearBlock => (0x02, 0x0F)
  | .csrRead _ => (0x0000000000, 0x1000000000)
  | .csrWrite _ _ => (0x1000000000, 0x1000000000)
  | .reset => (0x1, 0x1)
  | .nextPixel => (0x1, 0xF)
  | .dictClear => (0x2, 0xF)
  | .dictHash _ _ => (0x3, 0xF)
  | .dictLookup _ _ => (0x4, 0xF)
  | .dictInsert _ _ _ => (0x5, 0xF)
  | .emit _ => (0x6, 0xF)
  | .byteOut _ => (0x7, 0xF)
  | .blockFlush => (0x8, 0xF)
  | .headerOut _ => (0x9, 0xF)
  | .terminatorOut => (0xA, 0xF)
  | .sinkWrite _ => (0xB, 0xF)
  | .validate => (0xC, 0xF)

/-- The operation's word under its row's mask is its row's match, and it fits its format. -/
def Statement (i : Instr) : Prop := encode i &&& (row i).2 = (row i).1 ∧ encode i < 2 ^ i.format.width

/-- A primitive's call word holds its UOP in bits 3..0. -/
theorem primitive_word (uop operands : Nat) (h : uop < 16) :
    (encodePrimitive uop operands).toNat &&& 0xF = uop ∧ (encodePrimitive uop operands).toNat < 2 ^ 56 := by
  refine ⟨?_, (encodePrimitive uop operands).isLt⟩
  have : (0xF : Nat) = 2 ^ 4 - 1 := rfl
  rw [this, Nat.and_two_pow_sub_one_eq_mod]
  simp only [encodePrimitive, BitVec.toNat_ofNat]
  omega

/-- A host word holds WE in bit 36. -/
theorem host_word (we : Bool) (idx : BitVec 4) (wdata : Word) :
    (encodeHost we idx wdata).toNat &&& 0x1000000000 = (if we then 0x1000000000 else 0) ∧
      (encodeHost we idx wdata).toNat < 2 ^ 37 := by
  refine ⟨?_, (encodeHost we idx wdata).isLt⟩
  have h : (encodeHost we idx wdata).toNat.testBit 36 = we := by
    simp only [BitVec.testBit_toNat, encodeHost, BitVec.getLsbD_append]
    cases we <;> rfl
  have e : (0x1000000000 : Nat) = 2 ^ 36 := rfl
  rw [e, Nat.and_two_pow, h]
  cases we <;> rfl

theorem startInvalid : Statement .startInvalid := by unfold Statement; decide
theorem startOk : Statement .startOk := by unfold Statement; decide
theorem pixelHit : Statement .pixelHit := by unfold Statement; decide
theorem pixelMissInsert : Statement .pixelMissInsert := by unfold Statement; decide
theorem pixelMissFull : Statement .pixelMissFull := by unfold Statement; decide
theorem finish : Statement .finish := by unfold Statement; decide
theorem clearBlock : Statement .clearBlock := by unfold Statement; decide
theorem csrRead (idx : BitVec 4) : Statement (.csrRead idx) := host_word false idx 0#32
theorem csrWrite (idx : BitVec 4) (wdata : Word) : Statement (.csrWrite idx wdata) := host_word true idx wdata
theorem reset : Statement .reset := by unfold Statement; decide
theorem nextPixel : Statement .nextPixel := primitive_word 0x1 _ (by decide)
theorem dictClear : Statement .dictClear := primitive_word 0x2 _ (by decide)
theorem dictHash (ent : Code) (c : Byte) : Statement (.dictHash ent c) := primitive_word 0x3 _ (by decide)
theorem dictLookup (ent : Code) (c : Byte) : Statement (.dictLookup ent c) := primitive_word 0x4 _ (by decide)
theorem dictInsert (slot : Slot) (fcode : Key) (code : Code) : Statement (.dictInsert slot fcode code) :=
  primitive_word 0x5 _ (by decide)
theorem emit (code : Code) : Statement (.emit code) := primitive_word 0x6 _ (by decide)
theorem byteOut (b : Byte) : Statement (.byteOut b) := primitive_word 0x7 _ (by decide)
theorem blockFlush : Statement .blockFlush := primitive_word 0x8 _ (by decide)
theorem headerOut (init : BitVec 4) : Statement (.headerOut init) := primitive_word 0x9 _ (by decide)
theorem terminatorOut : Statement .terminatorOut := primitive_word 0xA _ (by decide)
theorem sinkWrite (b : Byte) : Statement (.sinkWrite b) := primitive_word 0xB _ (by decide)
theorem validate : Statement .validate := primitive_word 0xC _ (by decide)

end Sys2Proof.Laws.TableWord
end

