-- ==== Sys2Proof/Tests/Slice0.lean ====
section
/-! SUPPORT. Checks of single steps against the vectors of 95_test_vectors.md (named in each docstring), words written out from
30_encoding.md, and for each obligation with hypotheses a state that meets them. -/

namespace Sys2Proof.Tests

open Sys2Proof.Machine

/-- p holds of the state an outcome answers, and it answers one. -/
def nextHas (o : Host.Outcome State Fault Refusal) (p : State → Bool) : Bool :=
  match o with
  | .next t => p t
  | .fault _ => false
  | .refused _ => false

/-- The reset state with empty tables, a sink that accepts, PIX = [0, 1] and the configuration of V-01 latched. -/
def ready : State := { State.reset with
  ht := Vector.replicate _ none, ct := Vector.replicate _ 0#12, bb := Vector.replicate _ 0#8
  pix := [(1, 1#8)], sinkAnswers := List.replicate 1024 .accept
  lWidth := 2#16, lHeight := 1#16, lDepth := 2#8, lBuflen := 2#32 }

/-- `ready` after START_OK (95_test_vectors.md, SO2). -/
def running : State := { ready with
  state := stRunning, n := 2#32, init := 2#4, clear := 4#9, eofc := 5#9, nBits := 3#4, maxCode := 7#12, freeEnt := 6#13
  cursor := 1#32, entValid := true, acc := 4#19, bits := 3#5, sinkOut := [2#8], outCount := 1#32 }

/-- A run of depth 8 with ACC and BITS given. -/
def deep (acc : BitVec 19) (bits : BitVec 5) : State := { running with
  init := 8#4, clear := 256#9, eofc := 257#9, nBits := 9#4, maxCode := 511#12, freeEnt := 300#13, acc := acc, bits := bits }

/-- A run of depth 8 whose code space is full, at width 12 (PS3: the pixel read is 55). -/
def fullRun : State := { deep 0#19 0#5 with
  nBits := 12#4, maxCode := 4095#12, freeEnt := 4096#13, ent := 220#12, pix := [(1, 55#8)] }

/-- HT[16] holds the key of the pair (16, 0), as in DL2. -/
def collided : State := ready.dictInsert 16 16#20 0#12

/-! ### Well-formedness -/

/-- A slot that the table does not have is refused by the check, the last one it has is not (20_memory.md rule R63). -/
theorem test_wellFormed_slot :
    (Instr.dictInsert 5003#13 0#20 0#12).wellFormed = false ∧ (Instr.dictInsert 5002#13 0#20 0#12).wellFormed = true := by
  decide

/-! ### Words written out from the encoding -/

/-- 30_encoding.md rule R100, with the DVs of P1 to P3 and one with FULL set. -/
theorem test_decode_dispatch :
    decode .dispatch 0b00011000 = .ok .startInvalid ∧
    decode .dispatch 0b10011000 = .ok .startOk ∧
    decode .dispatch 0b10100001 = .ok .pixelHit ∧
    decode .dispatch 0b10000001 = .ok .pixelMissInsert ∧
    decode .dispatch 0b11000001 = .ok .pixelMissFull ∧
    decode .dispatch 0b10010001 = .ok .finish ∧
    decode .dispatch 0b11000010 = .ok .clearBlock := by decide

/-- 30_encoding.md rules R100, R101: no step in IDLE, DONE and ERROR; no such DV with STATE = 5, or with SR = 1 in CLEARING. -/
theorem test_decode_dispatch_refuses :
    decode .dispatch 0b10010000 = .error .noStep ∧
    decode .dispatch 0b10010011 = .error .noStep ∧
    decode .dispatch 0b10010100 = .error .noStep ∧
    decode .dispatch 0b10010101 = .error .unreachableDispatch ∧
    decode .dispatch 0b10001010 = .error .unreachableDispatch ∧
    decode .dispatch 0x100 = .error .tooWide := by decide

/-- 95_test_vectors.md section 7. -/
theorem test_decode_host :
    decode .host 0x0100000000 = .ok (.csrRead 1#4) ∧
    decode .host 0x0C00000000 = .ok (.csrRead 12#4) ∧
    decode .host 0x1200012345 = .ok (.csrWrite 2#4 0x12345#32) ∧
    decode .host 0x1000000001 = .ok (.csrWrite 0#4 1#32) := by decide

/-- The reset signal, asserted and not. -/
theorem test_decode_signal : decode .signal 1 = .ok .reset ∧ decode .signal 0 = .error .signalLow := by decide

/-- The UOPs of 30_encoding.md rule R102, with operands where the model's call word puts them (log 2). -/
theorem test_decode_primitive :
    decode .primitive 0x1 = .ok .nextPixel ∧
    decode .primitive 0x2 = .ok .dictClear ∧
    decode .primitive 0x0100003 = .ok (.dictHash 0x000#12 0x01#8 ) ∧
    decode .primitive 0xFFABC04 = .ok (.dictLookup 0xABC#12 0xFF#8) ∧
    decode .primitive (5 + 32 * 2 ^ 8 + 4096 * 2 ^ 21 + 259 * 2 ^ 41) = .ok (.dictInsert 32#13 4096#20 259#12) ∧
    decode .primitive 0xABC06 = .ok (.emit 0xABC#12) ∧
    decode .primitive 0x5B07 = .ok (.byteOut 0x5B#8) ∧
    decode .primitive 0x8 = .ok .blockFlush ∧
    decode .primitive 0x809 = .ok (.headerOut 8#4) ∧
    decode .primitive 0xA = .ok .terminatorOut ∧
    decode .primitive 0x440B = .ok (.sinkWrite 0x44#8) ∧
    decode .primitive 0xC = .ok .validate := by decide

/-- UOP 0x0 and 0xD name nothing (30_encoding.md rule R103); an ill-formed slot and a bit outside the fields are refused. -/
theorem test_decode_primitive_refuses :
    decode .primitive 0x0 = .error .noSuchPrimitive ∧
    decode .primitive 0xD = .error .noSuchPrimitive ∧
    decode .primitive (5 + 5003 * 2 ^ 8) = .error .illFormedCall ∧
    decode .primitive 0x11 = .error .illFormedCall ∧
    decode .primitive 0x101 = .error .illFormedCall := by decide

/-- The opcode table's words of 8 bits are read as dispatch vectors where a row's match equals them (log 1). -/
theorem test_decodeTableWord :
    decodeTableWord 8 0x08 = some .startInvalid ∧ decodeTableWord 8 0x0C = some .validate ∧
    decodeTableWord 40 0x1500000002 = some (.csrWrite 5#4 2#32) ∧ decodeTableWord 1 1 = some .reset := by decide

/-- A placed word is what the next step runs (log 18). -/
theorem test_withFetchWord :
    (State.reset.withFetchWord 8 0x88).fetch = .run .startOk ((State.reset.placeDispatch 0x88#8).withInputs []) ∧
    (State.reset.withFetchWord 40 0x1500000002).fetch = .run (.csrWrite 5#4 2#32) State.reset := ⟨rfl, rfl⟩

/-! ### The vectors, one step each -/

/-- V1 and V10 (43_driver.md rule R151): 0 < 0 is false, and the product does not overflow. -/
theorem test_validate :
    State.validate { ready with lWidth := 0#16, lBuflen := 0#32 } = 0b0001#4 ∧
    State.validate { ready with lWidth := 65535#16, lHeight := 65535#16, lDepth := 8#8, lBuflen := 0xFFFE0000#32 } = 0b1000#4 := by
  decide

/-- V7 (43_driver.md rule R152): STATUS reads 0x714 and nothing is written. -/
theorem test_startInvalid : nextHas
    (exec .startInvalid { ready with startReq := true, lWidth := 0#16, lHeight := 0#16, lDepth := 0#8, lBuflen := 0#32 })
    (fun t => t.csrValue 1#4 == 0x714#32 && t.outCount == 0#32 && t.sinkOut == []) = true := by decide

/-- SO2 (43_driver.md rule R153). -/
theorem test_startOk_depth2 : nextHas (exec .startOk ready)
    (fun t => t.sinkOut == [0x02#8] && t.csrValue 6#4 == 0x00080063#32 && t.csrValue 7#4 == 0x00001000#32 &&
      t.csrValue 8#4 == 0x00000304#32 && t.cursor == 1#32 && t.maxCode == 7#12 && t.state == stRunning) = true := by decide

/-- SO8 (43_driver.md rule R153): the 9-bit CLEAR drains one byte. -/
theorem test_startOk_depth8 : nextHas (exec .startOk { ready with lDepth := 8#8 })
    (fun t => t.sinkOut == [0x08#8] && t.clear == 256#9 && t.eofc == 257#9 && t.nBits == 9#4 && t.freeEnt == 258#13 &&
      t.acc == 1#19 && t.bits == 1#5 && t.aCount == 1#8 && t.blockByte 0 == 0x00#8) = true := by decide

/-- PS1 (43_driver.md rule R155). -/
theorem test_pixelMissInsert : nextHas (exec .pixelMissInsert running)
    (fun t => t.acc == 4#19 && t.bits == 6#5 && t.ent == 1#12 && t.key 16 == some 4096#20 && t.codeAt 16 == 6#12 &&
      t.freeEnt == 7#13 && t.cursor == 2#32) = true := by decide

/-- PS2 (43_driver.md rule R154): HT[0] = 0 with code 6, and the pixel is 0. -/
theorem test_pixelHit : nextHas
    (exec .pixelHit { running with ht := putAt running.ht 0 (some 0#20), ct := putAt running.ct 0 6#12, pix := [] })
    (fun t => t.ent == 6#12 && t.cursor == 2#32 && t.bits == 3#5 && t.acc == 4#19 && t.freeEnt == 6#13) = true := by decide

/-- PS3 (43_driver.md rule R156): 220 at width 12 is emitted, nothing inserted. -/
theorem test_pixelMissFull : nextHas (exec .pixelMissFull fullRun)
    (fun t => t.ent == 55#12 && t.state == stClearing && t.blockByte 0 == 220#8 && t.bits == 4#5 && t.acc == 0#19 &&
      t.key 940 == none && t.freeEnt == 4096#13) = true := by decide +kernel

/-- PS4 (43_driver.md rule R157): 256 at width 12, then the first width again. -/
theorem test_clearBlock : nextHas (exec .clearBlock { fullRun with state := stClearing })
    (fun t => t.blockByte 0 == 0x00#8 && t.acc == 1#19 && t.bits == 4#5 && t.nBits == 9#4 && t.maxCode == 511#12 &&
      t.freeEnt == 258#13 && t.clearFlag == false && t.state == stRunning && t.ent == 220#12) = true := by decide

/-- FI1 (43_driver.md rule R158). -/
theorem test_finish : nextHas
    (exec .finish { running with cursor := 2#32, acc := 4#19, bits := 6#5, ent := 1#12, freeEnt := 7#13 })
    (fun t => t.sinkOut == [0x02#8, 0x02#8, 0x44#8, 0x0A#8, 0x00#8] && t.state == stDone && t.acc == 0#19 && t.bits == 0#5 &&
      t.aCount == 0#8 && t.outCount == 5#32) = true := by decide

/-- FI2 (43_driver.md rule R158): the last code widens EOFC. -/
theorem test_finish_widens : nextHas
    (exec .finish { running with
      cursor := 2#32, acc := 0#19, bits := 1#5, aCount := 1#8, ent := 1#12, freeEnt := 8#13, bb := putAt running.bb 0 4#8 })
    (fun t => t.sinkOut == [0x02#8, 0x02#8, 0x04#8, 0x52#8, 0x00#8] && t.nBits == 4#4) = true := by decide

/-- STATUS with a START pending (95_test_vectors.md section 7), and after a SinkFailure (section 8). -/
theorem test_csrRead_status :
    State.csrValue { ready with startReq := true } 1#4 = 0x00001008#32 ∧
    State.csrValue { ready with state := stError, errCode := errSinkFailure } 1#4 = 0x00000024#32 := by decide

/-- `W WIDTH, 0x12345` and `W DEPTH, 0x109` (95_test_vectors.md section 7): the bits above the register are ignored. -/
theorem test_csrWrite :
    nextHas (exec (.csrWrite 2#4 0x12345#32) ready) (fun t => t.width == 0x2345#16) = true ∧
    nextHas (exec (.csrWrite 4#4 0x109#32) ready) (fun t => t.depth == 9#8) = true := by decide

/-- RS1 and RS3 (70_reset_and_hazards.md rule R270). -/
theorem test_reset : nextHas (exec .reset { running with state := stDone, sinkOut := [0x02#8, 0x00#8], width := 2#16 })
    (fun t => t.csrValue 1#4 == 0#32 && t.csrValue 2#4 == 0#32 && t.csrValue 6#4 == 0#32 && t.csrValue 10#4 == 0#32 &&
      t.sinkOut == [0x02#8, 0x00#8] && t.pix == [(1, 1#8)]) = true := by decide

/-- NP1 and NP2 (41_pixel_source.md rule R120). -/
theorem test_nextPixel :
    nextHas (exec .nextPixel running) (fun t => t.result == .pixel false 1#8 && t.cursor == 2#32) = true ∧
    nextHas (exec .nextPixel { running with cursor := 2#32 }) (fun t => t.result == .pixel true 0#8 && t.cursor == 2#32) = true := by
  decide

/-- DC1 (42_dictionary.md rule R130). -/
theorem test_dictClear : nextHas (exec .dictClear { collided with ct := putAt collided.ct 16 258#12 })
    (fun t => t.key 16 == none && t.codeAt 16 == 258#12) = true := by decide

/-- DH1 and DH4 (42_dictionary.md rule R132). -/
theorem test_dictHash :
    nextHas (exec (.dictHash 0#12 1#8) ready) (fun t => t.result == .hash 0x01000#20 16#13) = true ∧
    nextHas (exec (.dictHash 4095#12 255#8) ready) (fun t => t.result == .hash 0xFFFFF#20 15#13) = true := by decide

/-- DL2: a probe of one slot, to a miss at slot 32 (42_dictionary.md rule R133). -/
theorem test_dictLookup_miss : nextHas (exec (.dictLookup 0#12 1#8) collided)
    (fun t => t.result == .lookup false 0#12 32#13 4096#20) = true := by decide

/-- DL3: the same probe, to a hit (42_dictionary.md rule R133). -/
theorem test_dictLookup_hit : nextHas
    (exec (.dictLookup 0#12 1#8) { collided with ht := putAt collided.ht 32 (some 4096#20), ct := putAt collided.ct 32 259#12 })
    (fun t => t.result == .lookup true 259#12 32#13 4096#20) = true := by decide

/-- DI1 (42_dictionary.md rule R136). -/
theorem test_dictInsert : nextHas (exec (.dictInsert 32#13 4096#20 259#12) collided)
    (fun t => t.key 32 == some 4096#20 && t.codeAt 32 == 259#12 && t.key 16 == some 16#20) = true := by decide

/-- E1 (44_bit_packer.md rule R190): two bytes drain, 81 and FF. -/
theorem test_emit_drains : nextHas (exec (.emit 511#12) (deep 1#19 7#5))
    (fun t => t.blockByte 0 == 0x81#8 && t.blockByte 1 == 0xFF#8 && t.aCount == 2#8 && t.acc == 0#19 && t.bits == 0#5 &&
      t.nBits == 9#4) = true := by decide

/-- E5 (44_bit_packer.md rule R195): EOFC without a pad byte. -/
theorem test_emit_eof : nextHas
    (exec (.emit 5#12) { running with freeEnt := 7#13, acc := 0x1A#19, bits := 5#5, aCount := 1#8, bb := putAt running.bb 0 0x11#8 })
    (fun t => t.sinkOut == [0x02#8, 0x02#8, 0x11#8, 0xBA#8] && t.acc == 0#19 && t.bits == 0#5 && t.aCount == 0#8) = true := by
  decide

/-- B1 (45_block_writer.md rule R210): the 254th byte. -/
theorem test_byteOut : nextHas (exec (.byteOut 0x5B#8) { running with aCount := 253#8, sinkOut := [] })
    (fun t => t.sinkOut.take 2 == [0xFE#8, 0x00#8] && t.sinkOut.drop 254 == [0x5B#8] && t.aCount == 0#8) = true := by decide +kernel

/-- B2 and B3 (45_block_writer.md rule R211). -/
theorem test_blockFlush :
    nextHas (exec .blockFlush { ready with aCount := 2#8, bb := putAt (putAt ready.bb 0 0x44#8) 1 0x0A#8 })
      (fun t => t.sinkOut == [0x02#8, 0x44#8, 0x0A#8] && t.aCount == 0#8) = true ∧
    nextHas (exec .blockFlush ready) (fun t => t.sinkOut == []) = true := by decide

/-- B4 (45_block_writer.md rule R212). -/
theorem test_headerOut : nextHas (exec (.headerOut 8#4) ready) (fun t => t.sinkOut == [0x08#8]) = true := by decide

/-- B5 (45_block_writer.md rule R213). -/
theorem test_terminatorOut : nextHas (exec .terminatorOut ready) (fun t => t.sinkOut == [0x00#8]) = true := by decide

/-- B6 (45_block_writer.md rule R216, 60_exceptions.md rule R244). -/
theorem test_sinkWrite_fails : nextHas (exec (.sinkWrite 0x44#8) { running with outCount := 2#32, sinkAnswers := [.fail] })
    (fun t => t.csrValue 1#4 == 0x00000024#32 && t.outCount == 2#32 && t.sinkOut == [0x02#8]) = true := by decide

/-! ### A state for every obligation with hypotheses

Each theorem shows values that meet the hypotheses of the obligation it is named after, one group for each clause. -/

/-- `running` after PIXEL_MISS_INSERT (PS1): one key is stored, and no pixel is left. -/
def inserted : State := { running.dictInsert 16 4096#20 6#12 with
  ent := 1#12, freeEnt := 7#13, acc := 4#19, bits := 6#5, cursor := 2#32 }

/-- `inserted` after FINISH (FI1). -/
def done : State := { inserted with
  state := stDone, acc := 0#19, bits := 0#5, sinkOut := [0x02#8, 0x02#8, 0x44#8, 0x0A#8, 0x00#8], outCount := 5#32 }

/-- The sink of `ready` accepts. -/
theorem accepting (k : Nat) (h : k ≤ 1024) :
    (List.replicate 1024 SinkAnswer.accept).take k = List.replicate k SinkAnswer.accept := by
  rw [List.take_replicate, Nat.min_eq_left h]

theorem occupied_running : running.occupied = 0 := by
  change (Vector.replicate Config.hSize (none : Option Key)).toList.countP Option.isSome = 0
  rw [Vector.toList_replicate, List.countP_replicate]
  rfl

theorem occupied_inserted : inserted.occupied = 1 := by decide +kernel

theorem key_ready (j : Nat) : ready.key j = none := by
  simp only [State.key, ready]
  split <;> simp

theorem key_inserted (j : Nat) : inserted.key j = if 16 = j then some 4096#20 else none :=
  (State.key_dictInsert running 16 j 4096#20 6#12 (by decide)).trans (by rw [show running.key j = none from key_ready j])

theorem key_collided (j : Nat) : collided.key j = if 16 = j then some 16#20 else none :=
  (State.key_dictInsert ready 16 j 16#20 0#12 (by decide)).trans (by rw [key_ready j])

theorem next_of_nextHas {o : Host.Outcome State Fault Refusal} {p : State → Bool} (h : nextHas o p = true) : ∃ t, o = .next t := by
  cases o with
  | next t => exact ⟨t, rfl⟩
  | fault f => cases h
  | refused r => cases h

/-- The instruction or step answers a next state. -/
abbrev answers (o : Host.Outcome State Fault Refusal) : Prop := nextHas o (fun _ => true) = true

theorem witness_DecodeUndoesEncode : (Instr.dictInsert 5002#13 0xFFFFF#20 4095#12).wellFormed = true := by decide

theorem witness_EncodeUndoesDecode :
    decode .primitive 0x809 = .ok (.headerOut 8#4) ∧ decode .host 0x1FFFFFFFFF = .ok (.csrWrite 15#4 0xFFFFFFFF#32) ∧
    decode .dispatch 0xFF = .error .unreachableDispatch ∧ decode .dispatch 0xC2 = .ok .clearBlock := by decide

theorem witness_EveryPossibleDispatchVectorSelectsItsRow :
    stError.toNat ≤ 4 ∧ ¬(true = true ∧ (stError = stRunning ∨ stError = stClearing)) ∧
    ¬(false = true ∧ (stRunning = stRunning ∨ stRunning = stClearing)) := by decide

theorem witness_StepRunsTheHostsMove :
    (∃ s : State, ∃ rest, s.inputs = .host 0x0A00000000#37 :: rest) ∧
    (∃ s : State, ∃ rest, s.inputs = .reset :: rest) ∧
    (∃ s : State, ∃ rest, s.inputs = .primitive 0x8#56 :: rest ∧ s.stuck = none ∧
      decodePrimitive 0x8#56 = .ok .blockFlush) :=
  ⟨⟨ready.withInputs [.host 0x0A00000000#37], _, rfl⟩, ⟨ready.withInputs [.reset], _, rfl⟩,
    ⟨ready.withInputs [.primitive 0x8#56], _, rfl, rfl, by decide⟩⟩

theorem witness_StepRunsTheDispatchedOperation :
    (running.inputs = [] ∧ running.stuck = none ∧ running.errCode.toNat ≤ 2 ∧ running.dispatchVector = some 0x81#8 ∧
      decodeDispatch 0x81#8 = .ok .pixelMissInsert) ∧
    ∃ s t : State, (∃ rest, s.inputs = .engine :: rest ∧ t = s.withInputs rest) ∧ t.stuck = none ∧ t.errCode.toNat ≤ 2 ∧
      t.dispatchVector = some 0x81#8 :=
  ⟨by decide, running.withInputs [.engine], running, ⟨[], rfl, rfl⟩, by decide⟩

theorem witness_UnreachableDispatchVectorFaults :
    (∃ s : State, s.inputs = [] ∧ s.stuck = none ∧ s.errCode.toNat ≤ 2 ∧ s.hit ≠ none ∧ 5 ≤ s.state.toNat) ∧
    (∃ s t : State, (∃ rest, s.inputs = .engine :: rest ∧ t = s.withInputs rest) ∧ t.stuck = none ∧ t.errCode.toNat ≤ 2 ∧
      t.hit ≠ none ∧ t.startReq = true ∧ t.state = stRunning) ∧
    ∃ s : State, s.inputs = [] ∧ s.stuck = none ∧ s.errCode.toNat ≤ 2 ∧ s.hit ≠ none ∧ s.startReq = true ∧
      s.state = stClearing :=
  ⟨⟨{ ready with state := 5#3 }, by decide⟩,
    ⟨{ running with startReq := true, inputs := [.engine] }, { running with startReq := true }, ⟨[], rfl, rfl⟩, by decide⟩,
    ⟨{ running with startReq := true, state := stClearing }, by decide⟩⟩

theorem witness_QuiescentEngineTakesNoStep :
    (ready.inputs = [] ∧ ready.errCode.toNat ≤ 2 ∧ ready.startReq = false ∧ ready.state = stIdle) ∧
    (∃ s : State, (∃ rest, s.inputs = .engine :: rest ∧ done = s.withInputs rest) ∧ done.errCode.toNat ≤ 2 ∧
      done.startReq = false ∧ done.state = stDone) ∧
    ∃ s : State, s.inputs = [] ∧ s.errCode.toNat ≤ 2 ∧ s.startReq = false ∧ s.state = stError :=
  ⟨by decide, ⟨done.withInputs [.engine], ⟨[], rfl, rfl⟩, by decide⟩, { done with state := stError, errCode := errSinkFailure },
    by decide⟩

/-- The engine waits for the sink inside FINISH. -/
def waiting : State := { inserted with stuck := some (.sink 0x44#8) }

theorem witness_StuckEngineIsLeftOnlyByReset :
    (waiting.stuck = some (.sink 0x44#8) ∧ waiting.inputs = []) ∧
    (∃ s : State, s.stuck = some (.sink 0x44#8) ∧ s.inputs = [.engine]) ∧
    (∃ s : State, s.stuck = some (.sink 0x44#8) ∧ s.inputs = [.primitive 0x8#56]) ∧
    (∃ s : State, s.stuck = some (.sink 0x44#8) ∧ s.inputs = [.host 0x1000000001#37]) ∧
    (∃ s : State, s.stuck = some (.sink 0x44#8) ∧ s.inputs = [.pixWrite 1#32 0#8]) ∧
    ∃ s : State, s.stuck = some .probe ∧ s.inputs = [.reset] :=
  ⟨⟨rfl, rfl⟩, ⟨waiting.withInputs [.engine], rfl, rfl⟩, ⟨waiting.withInputs [.primitive 0x8#56], rfl, rfl⟩,
    ⟨waiting.withInputs [.host 0x1000000001#37], rfl, rfl⟩, ⟨waiting.withInputs [.pixWrite 1#32 0#8], rfl, rfl⟩,
    ⟨{ waiting with stuck := some .probe, inputs := [.reset] }, rfl, rfl⟩⟩

theorem witness_HostWriteOfPixIsReadBack :
    (∃ s : State, s.inputs = [.pixWrite 1#32 0#8] ∧ s.pix.wf = true ∧ s.busy = true ∧ 1 < s.runLength) ∧
    ∃ s : State, s.inputs = [.pixWrite 0xFFFFFFFF#32 7#8] ∧ s.pix.wf = true ∧ s.busy = false :=
  ⟨⟨running.withInputs [.pixWrite 1#32 0#8], by decide⟩, ⟨ready.withInputs [.pixWrite 0xFFFFFFFF#32 7#8], by decide⟩⟩

theorem witness_ReservedIndicesReadZeroAndIgnoreWrites : 11 ≤ (11#4 : BitVec 4).toNat ∧ 11 ≤ (15#4 : BitVec 4).toNat := by
  decide

theorem witness_StartLatchesTheConfiguration :
    (ready.startReq = false ∧ ready.state ≠ stRunning ∧ ready.state ≠ stClearing ∧ (1#32 : Word).getLsbD 0 = true) ∧
    (done.startReq = false ∧ done.state ≠ stRunning ∧ done.state ≠ stClearing ∧ (0xFFFFFFFE#32 : Word).getLsbD 0 = false) := by
  decide

theorem witness_StartWhileBusyIsIgnored :
    (∃ s : State, s.startReq = true) ∧ running.state = stRunning ∧ ∃ s : State, s.state = stClearing :=
  ⟨⟨{ ready with startReq := true }, rfl⟩, rfl, ⟨{ fullRun with state := stClearing }, rfl⟩⟩

theorem witness_StartWithResetConfigurationIsRejected :
    ∃ s : State, s.inputs = [.host 0x1000000001#37] ∧ s.stuck = none ∧ s.state = stIdle ∧ s.startReq = false ∧
      s.errCode.toNat ≤ 2 ∧ s.width = 0#16 ∧ s.height = 0#16 ∧ s.depth = 0#8 ∧ s.buflen = 0#32 :=
  ⟨State.reset.withInputs [.host 0x1000000001#37], by decide⟩

theorem witness_StartOkBeginsAFreshRun :
    (ready.lWidth.toNat ≠ 0 ∧ ready.lHeight.toNat ≠ 0 ∧ 1 ≤ ready.lDepth.toNat ∧ ready.lDepth.toNat ≤ 8 ∧ ready.accepts 1) ∧
    (∃ s : State, s.lWidth.toNat ≠ 0 ∧ s.lHeight.toNat ≠ 0 ∧ s.lDepth.toNat = 1 ∧ s.accepts 1) ∧
    ∃ s : State, s.lWidth.toNat ≠ 0 ∧ s.lHeight.toNat ≠ 0 ∧ s.lDepth.toNat = 8 ∧ s.accepts 1 :=
  ⟨by decide, ⟨{ ready with lDepth := 1#8 }, by decide⟩, ⟨{ ready with lDepth := 8#8 }, by decide⟩⟩

theorem witness_StartOkWhoseHeaderFails :
    ∃ (s : State) (rest : List SinkAnswer), s.sinkAnswers = .fail :: rest ∧ 1 ≤ s.lDepth.toNat ∧ s.lDepth.toNat ≤ 8 :=
  ⟨{ ready with sinkAnswers := [.fail, .accept] }, [.accept], by decide⟩

theorem witness_EmptyStreamIsClearThenEof :
    (∃ s : State, s.lWidth.toNat = 0 ∧ 1 ≤ s.lDepth.toNat ∧ s.lDepth.toNat ≤ 8 ∧ s.accepts 16) ∧
    ∃ s : State, s.lHeight.toNat = 0 ∧ 1 ≤ s.lDepth.toNat ∧ s.lDepth.toNat ≤ 8 ∧ s.accepts 16 :=
  ⟨⟨{ ready with lWidth := 0#16, lDepth := 8#8 }, by decide⟩, ⟨{ ready with lHeight := 0#16, lDepth := 1#8 }, by decide⟩⟩

theorem witness_PixelHitExtendsTheSequence :
    ∃ (s : State) (code : Code) (slot : Slot), s.cursor ≠ s.n ∧ s.dictLookup s.ent (s.pixRead s.cursor.toNat).1 = .hit code slot :=
  ⟨{ inserted with ent := 0#12, cursor := 1#32 }, 6#12, 16#13, by decide⟩

theorem witness_PixelMissInsertEmitsThenInserts :
    running.cursor ≠ running.n ∧ running.aCount.toNat ≤ 253 ∧ running.accepts 512 ∧
    running.dictLookup running.ent (running.pixRead running.cursor.toNat).1 = .miss 16#13 :=
  ⟨by decide, by decide, accepting _ (by decide), by decide⟩

theorem witness_PixelMissFullEmitsThenClears :
    fullRun.cursor ≠ fullRun.n ∧ fullRun.aCount.toNat ≤ 253 ∧ fullRun.accepts 512 ∧
    fullRun.dictLookup fullRun.ent (fullRun.pixRead fullRun.cursor.toNat).1 = .miss 940#13 :=
  ⟨by decide, by decide, accepting _ (by decide), State.dictLookup_empty _ _ _ key_ready⟩

theorem witness_ClearBlockRestartsTheDictionary :
    fullRun.aCount.toNat ≤ 253 ∧ fullRun.init.toNat ≤ 8 ∧ fullRun.accepts 512 :=
  ⟨by decide, by decide, accepting _ (by decide)⟩

theorem witness_FinishEndsTheOutput :
    (inserted.entValid = true ∧ inserted.aCount.toNat ≤ 253 ∧ inserted.accepts 512) ∧
    ∃ s : State, s.entValid = false ∧ s.aCount.toNat = 253 ∧ s.accepts 512 :=
  ⟨⟨rfl, by decide, accepting _ (by decide)⟩, { inserted with aCount := 253#8, entValid := false }, rfl, rfl, accepting _ (by decide)⟩

/-- A block that stays below 254 bytes, one that is just filled, and one that is filled by the first of two bytes; with and without
CLEAR_FLAG, with and without growth of the width. -/
theorem witness_EmitPacksTheCode :
    (running.packed ∧ running.aCount.toNat ≤ 253 ∧ running.accepts 255 ∧ (0#12 : Code).toNat ≠ running.eofc.toNat) ∧
    (∃ s : State, s.packed ∧ s.aCount.toNat = 253 ∧ (s.bits.toNat + s.nBits.toNat) / 8 = 1 ∧ s.accepts 255 ∧
      (256#12 : Code).toNat ≠ s.eofc.toNat ∧ s.clearFlag = true) ∧
    (∃ s : State, s.packed ∧ s.aCount.toNat = 253 ∧ (s.bits.toNat + s.nBits.toNat) / 8 = 2 ∧ s.accepts 255 ∧
      (511#12 : Code).toNat ≠ s.eofc.toNat ∧ s.maxCode.toNat < s.freeEnt.toNat ∧ s.nBits.toNat < 12) :=
  ⟨⟨by decide, by decide, accepting _ (by decide), by decide⟩,
    ⟨{ deep 0#19 0#5 with aCount := 253#8, clearFlag := true }, by decide, rfl, rfl, accepting _ (by decide), by decide, rfl⟩,
    ⟨{ deep 1#19 7#5 with aCount := 253#8, freeEnt := 512#13 }, by decide, rfl, rfl, accepting _ (by decide), by decide, by decide,
      by decide⟩⟩

theorem witness_EmitOfEofFlushesEverything :
    (running.packed ∧ running.aCount.toNat ≤ 253 ∧ running.accepts 512 ∧ (5#12 : Code).toNat = running.eofc.toNat) ∧
    ∃ s : State, s.packed ∧ s.aCount.toNat = 253 ∧ s.accepts 512 ∧ (257#12 : Code).toNat = s.eofc.toNat :=
  ⟨⟨by decide, by decide, accepting _ (by decide), rfl⟩, { deep 1#19 7#5 with aCount := 253#8 }, by decide, rfl,
    accepting _ (by decide), rfl⟩

theorem witness_ByteOutFillsTheBlock :
    (∃ s : State, s.aCount.toNat = 252) ∧ ∃ s : State, s.aCount.toNat = 253 ∧ s.accepts 255 :=
  ⟨⟨{ running with aCount := 252#8 }, rfl⟩, { running with aCount := 253#8 }, rfl, accepting _ (by decide)⟩

theorem witness_BlockFlushWritesLengthAndData :
    (running.aCount.toNat = 0 ∧ running.accepts (running.aCount.toNat + 1)) ∧
    ∃ s : State, s.aCount.toNat = 254 ∧ s.accepts (s.aCount.toNat + 1) :=
  ⟨by decide, { running with aCount := 254#8 }, rfl, accepting _ (by decide)⟩

theorem witness_BlockFlushStopsAtTheFailedByte :
    (∃ (s : State) (rest : List SinkAnswer), 0 < s.aCount.toNat ∧ s.aCount.toNat ≤ 254 ∧
      s.sinkAnswers = List.replicate 0 .accept ++ .fail :: rest) ∧
    ∃ (s : State) (rest : List SinkAnswer), 0 < s.aCount.toNat ∧ s.aCount.toNat ≤ 254 ∧
      s.sinkAnswers = List.replicate s.aCount.toNat .accept ++ .fail :: rest :=
  ⟨⟨{ running with aCount := 2#8, sinkAnswers := [.fail] }, [], by decide⟩,
    { running with aCount := 2#8, sinkAnswers := [.accept, .accept, .fail, .accept] }, [.accept], by decide⟩

theorem witness_AcceptedByteIsOutputAndCounted : ∃ (s : State) (rest : List SinkAnswer), s.sinkAnswers = .accept :: rest :=
  ⟨ready, _, rfl⟩

theorem witness_FailedByteRaisesSinkFailure :
    ∃ (s : State) (rest : List SinkAnswer), s.sinkAnswers = .fail :: rest ∧
      (∃ b, Instr.sinkWrite 0x44#8 = .sinkWrite b) ∧ (∃ init, Instr.headerOut 8#4 = .headerOut init) :=
  ⟨{ ready with sinkAnswers := [.fail] }, [], rfl, ⟨_, rfl⟩, ⟨_, rfl⟩⟩

theorem witness_EverySinkAnswerHasItsOutcome :
    (∃ a rest, ready.sinkAnswers = a :: rest) ∧ (∃ s : State, s.sinkAnswers = []) ∧ ready.takeAnswer.1 = .accept ∧
    (∃ s : State, s.takeAnswer.1 = .fail) ∧ ∃ s : State, s.takeAnswer.1 = .silent :=
  ⟨⟨_, _, rfl⟩, ⟨State.reset, rfl⟩, rfl, ⟨{ ready with sinkAnswers := [.fail] }, rfl⟩, { ready with sinkAnswers := [.silent] }, rfl⟩

theorem witness_NextPixelReadsInOrder :
    inserted.cursor = inserted.n ∧ (running.cursor ≠ running.n ∧ running.cursor.toNat ∉ running.pixDirty) ∧
    ∃ s : State, s.cursor ≠ s.n ∧ s.cursor.toNat ∈ s.pixDirty :=
  ⟨rfl, by decide, { running with pixDirty := [1] }, by decide⟩

theorem witness_DictLookupAnswersTruly :
    (∃ i, i < 5003 ∧ collided.key i = none) ∧ collided.key (primarySlot 0#12 0#8).toNat = none ∧
    collided.key (primarySlot 16#12 0#8).toNat = some (fcodeOf 16#12 0#8) ∧
    collided.dictLookup 16#12 0#8 = .hit 0#12 16#13 ∧ collided.dictLookup 0#12 1#8 = .miss 32#13 :=
  ⟨⟨5002, by decide, by rw [key_collided]; decide⟩, by decide⟩

theorem witness_ProbeVisitsEverySlot : (0 < 5003 ∧ 5002 < 5003) ∧ inserted.occupied < 5003 := by
  rw [occupied_inserted]
  decide

theorem witness_DictInsertWritesOneSlot : (5002#13 : Slot).toNat < 5003 ∧ 5003 ≤ (5003#13 : Slot).toNat := by decide

theorem witness_LookupFindsWhatWasInserted :
    collided.dictLookup 0#12 1#8 = .miss 32#13 ∧ answers (exec (.dictInsert 32#13 (fcodeOf 0#12 1#8) 259#12) collided) := by
  decide

theorem witness_InsertionDisturbsNoOtherLookup :
    collided.dictLookup 0#12 1#8 = .miss 32#13 ∧ answers (exec (.dictInsert 32#13 (fcodeOf 0#12 1#8) 259#12) collided) ∧
    ¬((16#12 : Code) = 0#12 ∧ (0#8 : Byte) = 1#8) ∧ collided.dictLookup 16#12 0#8 = .hit 0#12 16#13 ∧
    collided.dictLookup 1#12 0#8 = .miss 1#13 ∧ ∀ j, collided.key j ≠ some (fcodeOf 1#12 0#8) := by
  refine ⟨by decide, by decide, by decide, by decide, by decide, fun j => ?_⟩
  rw [key_collided]
  split <;> decide

/-- For `Obligations.OperationsNeverWritePix`, `Obligations.AcceptedBytesAreNeverTakenBack` (steps),
`Obligations.ConfigurationChangesOnlyByTheHost` (an operation that is no write, one that is no write of CTRL) and
`Obligations.RunConstantsChangeOnlyAtStartOk`. -/
theorem witness_AnyNextState :
    answers (exec .pixelMissInsert running) ∧ answers (exec .finish inserted) ∧ answers (exec (.csrWrite 2#4 3#32) running) ∧
    answers (step (running.withInputs [.pixWrite 1#32 0#8])) ∧ answers (step running) := by decide

/-- For `Obligations.OnlyDictionaryOperationsChangeTheTables`, both clauses, and `Obligations.OutcountCountsAcceptedBytes`. -/
theorem witness_OnlyDictionaryOperationsChangeTheTables :
    (answers (exec .finish inserted) ∧
      nextHas (exec .finish { inserted with errCode := 0#4 }) (fun u => u.errCode != errSinkFailure && u.stuck == none) = true) ∧
    (answers (exec .clearBlock fullRun) ∧
      nextHas (exec .clearBlock { fullRun with errCode := 0#4 }) (fun u => u.errCode != errSinkFailure && u.stuck == none) = true) ∧
    ∃ s : State, s.state = stError ∧ s.errCode = errSinkFailure ∧ answers (exec (.csrRead 1#4) s) ∧
      nextHas (exec (.csrRead 1#4) { s with errCode := 0#4 }) (fun u => u.errCode != errSinkFailure) = true :=
  ⟨by decide, by decide, { inserted with state := stError, errCode := errSinkFailure }, rfl, rfl, by decide⟩

theorem witness_StateChangesAsTheTableSays :
    answers (step running) ∧ (∀ call rest, running.inputs ≠ .primitive call :: rest) :=
  ⟨by decide, fun _ _ h => by cases h⟩

theorem running_inv : running.Inv where
  state_legal := by decide
  errCode_legal := by decide
  startReq_quiet := fun h => by cases h
  in_run := fun _ =>
    { init_range := by decide, clear_eq := by decide, eofc_eq := by decide, nBits_range := by decide, maxCode_eq := by decide
      freeEnt_range := by decide, freeEnt_fits := by decide, clearFlag_eq := rfl, bits_range := by decide, acc_range := by decide
      aCount_range := by decide, cursor_range := by decide, occupied_eq := occupied_running, clearing_full := fun h => by cases h }
  done_empty := fun h => by cases h
  pix_wf := by decide
  no_calls := fun _ h => by cases h

theorem inserted_inv : inserted.Inv where
  state_legal := by decide
  errCode_legal := by decide
  startReq_quiet := fun h => by cases h
  in_run := fun _ =>
    { init_range := by decide, clear_eq := by decide, eofc_eq := by decide, nBits_range := by decide, maxCode_eq := by decide
      freeEnt_range := by decide, freeEnt_fits := by decide, clearFlag_eq := rfl, bits_range := by decide, acc_range := by decide
      aCount_range := by decide, cursor_range := by decide, occupied_eq := occupied_inserted, clearing_full := fun h => by cases h }
  done_empty := fun h => by cases h
  pix_wf := by decide
  no_calls := fun _ h => by cases h

theorem witness_EveryStepKeepsTheInvariant : (running.Inv ∧ answers (step running)) ∧ inserted.Inv ∧ answers (step inserted) :=
  ⟨⟨running_inv, by decide⟩, inserted_inv, by decide⟩

theorem witness_GoodStatesNeverStop : running.Inv := running_inv

theorem witness_EveryStepKeepsTheOutputForm : inserted.Inv ∧ inserted.OutputInv ∧ answers (step inserted) :=
  ⟨inserted_inv,
    { running := fun _ _ => ⟨[], [], by decide, .nil, by decide⟩
      done := fun _ h => by cases h },
    by decide⟩

/-- The output of a finished run has the form, too. -/
theorem witness_OutputInv_done : done.OutputInv where
  running := fun _ h => by rcases h with h | h <;> cases h
  done := fun _ _ => ⟨[], [0x02#8, 0x44#8, 0x0A#8], by decide, .cons [0x44#8, 0x0A#8] [] (by decide) (by decide) .nil, by decide, by decide⟩

/-- With a key stored. -/
theorem witness_EveryStepKeepsTheDictionarySound : inserted.Inv ∧ inserted.DictInv ∧ answers (step inserted) := by
  have at16 : ∀ i, inserted.key i ≠ none → i = 16 := fun i h => by
    rw [key_inserted] at h
    by_contra hne
    exact h (if_neg (Ne.symm hne))
  refine ⟨inserted_inv, ⟨fun _ i ent c h => ?_, fun _ i h => ?_, fun _ i j hi hj _ => (at16 i hi).trans (at16 j hj).symm⟩, by decide⟩
  · obtain rfl := at16 i (by rw [h]; simp)
    rw [key_inserted, if_pos rfl] at h
    have e := congrArg BitVec.toNat (Option.some.inj h)
    have he := ent.isLt
    have hc := c.isLt
    simp only [fcodeOf, Config.keyShift, BitVec.toNat_ofNat, Nat.shiftLeft_eq] at e
    obtain rfl : ent = 0#12 := BitVec.eq_of_toNat_eq (by simp only [BitVec.toNat_ofNat]; omega)
    obtain rfl : c = 1#8 := BitVec.eq_of_toNat_eq (by simp only [BitVec.toNat_ofNat]; omega)
    decide
  · obtain rfl := at16 i h
    decide

theorem witness_StartOkForgetsEarlierRuns :
    nextHas (exec .startOk ready) (fun t => t.stuck == none) = true ∧
    answers (exec .startOk { ready with ht := inserted.ht, ent := 9#12, aCount := 77#8, cursor := 5#32, clearFlag := true }) := by
  decide

theorem witness_AcceptedRunReachesDone :
    inserted.Inv ∧ inserted.inRun ∧ inserted.inputs = [] ∧ inserted.stuck = none ∧ inserted.accepts (512 * (inserted.remaining + 1)) :=
  ⟨inserted_inv, .inl rfl, rfl, rfl, accepting _ (by decide)⟩

end Sys2Proof.Tests
end

section
/-! PROOFS. The CSRs as the host sees them (10_state.md rules R43 to R54): what a read shows of each field, and what a write leaves. -/

namespace Sys2Proof.Machine

theorem field_append_low {m k lo : Nat} (x : BitVec m) (y : BitVec k) (h : lo = 0) : field (x ++ y) lo k = y := by
  subst h
  exact BitVec.extractLsb'_append_eq_right

theorem field_append_high {m k lo : Nat} (x : BitVec m) (y : BitVec k) (w : Nat) (h : k ≤ lo) :
    field (x ++ y) lo w = field x (lo - k) w := BitVec.extractLsb'_append_eq_of_le h

theorem field_zero (m lo w : Nat) : field (0#m) lo w = 0#w := BitVec.extractLsb'_zero

theorem field_low_eq_setWidth {n w : Nat} (v : BitVec n) (h : w ≤ n) : field v 0 w = v.setWidth w :=
  (BitVec.setWidth_eq_extractLsb' h).symm

theorem getLsbD_append_high {m k i : Nat} (x : BitVec m) (y : BitVec k) (h : k ≤ i) :
    (x ++ y).getLsbD i = x.getLsbD (i - k) := by
  rw [BitVec.getLsbD_append, if_neg (Nat.not_lt.2 h)]

theorem getLsbD_append_low {m k i : Nat} (x : BitVec m) (y : BitVec k) (h : i < k) :
    (x ++ y).getLsbD i = y.getLsbD i := by
  rw [BitVec.getLsbD_append, if_pos h]

theorem getLsbD_ofBool_zero (b : Bool) {i : Nat} (h : i = 0) : (BitVec.ofBool b).getLsbD i = b := by
  subst h
  simp

theorem exec_csrRead (idx : BitVec 4) (s : State) : exec (.csrRead idx) s = .next { s with rdata := s.csrValue idx } := rfl

theorem exec_csrWrite (idx : BitVec 4) (wdata : Word) (s : State) :
    exec (.csrWrite idx wdata) s = .next (s.csrStore idx wdata) := rfl

/-! The words of STATUS, CODESTATE, ENTSTATE and PACKSTATE, with the width of each left as the sum of its fields' widths. -/

theorem State.csrValue_status (s : State) : s.csrValue 1#4 =
    (0#19 ++ BitVec.ofBool s.startReq ++ s.reason ++ s.errCode ++ BitVec.ofBool s.busy ++ s.state :) := rfl

theorem State.csrValue_codestate (s : State) : s.csrValue 6#4 =
    (0#10 ++ s.init ++ BitVec.ofBool s.clearFlag ++ s.freeEnt ++ s.nBits :) := rfl

theorem State.csrValue_entstate (s : State) : s.csrValue 7#4 = (0#19 ++ BitVec.ofBool s.entValid ++ s.ent :) := rfl

theorem State.csrValue_packstate (s : State) : s.csrValue 8#4 =
    (0#12 ++ s.aCount ++ field s.bits 0 4 ++ field s.acc 0 8 :) := by
  rw [field_low_eq_setWidth _ (by decide), field_low_eq_setWidth _ (by decide)]
  rfl

/-- BUSY (R41). -/
theorem State.busy_iff (s : State) : s.busy = true ↔ s.startReq = true ∨ s.state = stRunning ∨ s.state = stClearing := by
  simp [State.busy, or_assoc]

/-- A reserved index reads 0 (R54). -/
theorem State.csrValue_reserved (s : State) {idx : BitVec 4} (h : 11 ≤ idx.toNat) : s.csrValue idx = 0#32 := by
  unfold State.csrValue
  split
  case h_11 => rfl
  all_goals omega

/-- A write reaches CTRL and the four configuration registers only (R43, R45 to R48). -/
theorem State.csrStore_readOnly (s : State) {idx : BitVec 4} (wdata : Word) (h : idx = 1#4 ∨ 6 ≤ idx.toNat) :
    s.csrStore idx wdata = s := by
  have hidx : idx.toNat = 1 ∨ 6 ≤ idx.toNat := h.imp_left (congrArg BitVec.toNat)
  unfold State.csrStore
  split
  case h_6 => rfl
  all_goals omega

/-- Every CSR reads 0 after reset (R55). -/
theorem csrValue_reset (idx : BitVec 4) : State.reset.csrValue idx = 0#32 := by
  unfold State.csrValue
  split <;> rfl

end Sys2Proof.Machine

open Sys2Proof Sys2Proof.Machine

/-- Settles O11: each field of STATUS is a part of the word read. -/
theorem statusShowsItsFields : Obligations.StatusShowsItsFields := by
  refine ⟨fun s => ⟨s.csrValue 1#4, rfl, ?_⟩, fun s wdata => ?_, ?_⟩
  · rw [s.csrValue_status, ← s.busy_iff]
    simp (disch := decide) only [field_append_low, field_append_high, field_zero, getLsbD_append_low, getLsbD_append_high,
      getLsbD_ofBool_zero, and_self]
  · rw [exec_csrWrite, s.csrStore_readOnly wdata (.inl rfl)]
  · rw [exec_csrRead, csrValue_reset]

/-- Settles O12: each field of the three registers is a part of the word read. -/
theorem progressRegistersShowTheirFields : Obligations.ProgressRegistersShowTheirFields := by
  refine ⟨fun s => ⟨s.csrValue 6#4, rfl, ?_⟩, fun s => ⟨s.csrValue 7#4, rfl, ?_⟩, fun s => ⟨s.csrValue 8#4, rfl, ?_⟩,
    fun s idx wdata hidx => ⟨?_, ?_⟩⟩
  · rw [s.csrValue_codestate]
    simp (disch := decide) only [field_append_low, field_append_high, field_zero, getLsbD_append_low, getLsbD_append_high,
      getLsbD_ofBool_zero, and_self]
  · rw [s.csrValue_entstate]
    simp (disch := decide) only [field_append_low, field_append_high, field_zero, getLsbD_append_low, getLsbD_append_high,
      getLsbD_ofBool_zero, and_self]
  · rw [s.csrValue_packstate]
    simp (disch := decide) only [field_append_low, field_append_high, field_zero, and_self]
  · have readOnly : 6 ≤ idx.toNat := by rcases hidx with rfl | rfl | rfl <;> decide
    rw [exec_csrWrite, s.csrStore_readOnly wdata (.inr readOnly)]
  · rw [exec_csrRead, csrValue_reset]

/-- Settles O13. -/
theorem countersAreShownAndReadOnly : Obligations.CountersAreShownAndReadOnly :=
  ⟨fun s => ⟨exec_csrRead 9#4 s, exec_csrRead 10#4 s⟩,
    fun s wdata => ⟨by rw [exec_csrWrite, s.csrStore_readOnly wdata (.inr (by decide))],
      by rw [exec_csrWrite, s.csrStore_readOnly wdata (.inr (by decide))]⟩,
    rfl, rfl⟩

/-- Settles O14. -/
theorem reservedIndicesReadZeroAndIgnoreWrites : Obligations.ReservedIndicesReadZeroAndIgnoreWrites := by
  intro s idx wdata hidx
  rw [exec_csrRead, exec_csrWrite, s.csrValue_reserved hidx, s.csrStore_readOnly wdata (.inr (by omega))]
  exact ⟨rfl, rfl⟩

/-- Settles O15: a write stores the low bits of WDATA, which is what `field` takes at bit 0. -/
theorem configurationRegistersStoreTheirFields : Obligations.ConfigurationRegistersStoreTheirFields := by
  intro s wdata
  simp (disch := decide) only [field_low_eq_setWidth]
  exact ⟨exec_csrWrite 2#4 wdata s, exec_csrWrite 3#4 wdata s, exec_csrWrite 4#4 wdata s, exec_csrWrite 5#4 wdata s,
    exec_csrRead 0#4 s, exec_csrRead 2#4 s, exec_csrRead 3#4 s, exec_csrRead 4#4 s, exec_csrRead 5#4 s⟩
end

section
/-! PROOFS. What an operation leaves and what it counts, said once: every operation but START_OK, RESET and a CSR write keeps the host's
part of the state and the constants of the run, and the bytes it outputs are counted in OUTCOUNT (10_state.md rules R23 to R25, R34). -/

namespace Sys2Proof

/-- An operation of a run: it starts no run, ends none by a rejection, and is neither the host's write nor RESET. -/
def Instr.ofRun : Instr → Bool
  | .startInvalid => false
  | .startOk => false
  | .csrWrite _ _ => false
  | .reset => false
  | _ => true

theorem Instr.ofRun_or (i : Instr) : i.ofRun = true ∨ i = .startInvalid ∨ i = .startOk ∨ i = .reset ∨
    ∃ idx wdata, i = .csrWrite idx wdata := by
  cases i with
  | startInvalid => exact .inr (.inl rfl)
  | startOk => exact .inr (.inr (.inl rfl))
  | reset => exact .inr (.inr (.inr (.inl rfl)))
  | csrWrite idx wdata => exact .inr (.inr (.inr (.inr ⟨idx, wdata, rfl⟩)))
  | _ => exact .inl rfl

end Sys2Proof

namespace Sys2Proof.Machine

/-- What is left of a state without the fields that the operations of a run may write: the host's configuration, the latched one, the
constants of the run, PIX with the addresses noted in it, and the schedule. -/
def State.runView (s : State) : State :=
  { State.reset with
    width := s.width
    height := s.height
    depth := s.depth
    buflen := s.buflen
    lWidth := s.lWidth
    lHeight := s.lHeight
    lDepth := s.lDepth
    lBuflen := s.lBuflen
    init := s.init
    clear := s.clear
    eofc := s.eofc
    n := s.n
    pix := s.pix
    pixDirty := s.pixDirty
    inputs := s.inputs }

/-- From s an operation of a run, or a part of it, has led to t. -/
structure Operates (s t : State) : Prop where
  frame : t.runView = s.runView
  bytes : ∃ bs : List Byte, t.sinkOut = s.sinkOut ++ bs ∧ t.outCount = s.outCount + BitVec.ofNat 32 bs.length

theorem Operates.of_frame {s t : State} (h : t.runView = s.runView) (ho : t.sinkOut = s.sinkOut)
    (hc : t.outCount = s.outCount) : Operates s t := ⟨h, [], by simp [ho], by simp [hc]⟩

theorem Operates.refl (s : State) : Operates s s := Operates.of_frame rfl rfl rfl

theorem Operates.trans {s t u : State} (h1 : Operates s t) (h2 : Operates t u) : Operates s u := by
  obtain ⟨f1, b1, o1, c1⟩ := h1
  obtain ⟨f2, b2, o2, c2⟩ := h2
  refine ⟨f2.trans f1, b1 ++ b2, by rw [o2, o1, List.append_assoc], ?_⟩
  rw [c2, c1, List.length_append, BitVec.ofNat_add, BitVec.add_assoc]

theorem Operates.andThen {s : State} {r : Flow} {f : State → Flow} (hr : r.All (Operates s))
    (hf : ∀ t, (f t).All (Operates t)) : (r.andThen f).All (Operates s) :=
  Flow.andThen_all hr fun t ht => (hf t).imp fun _ hu => ht.trans hu

/-- Whatever depends on no field that an emission may change is kept by it. -/
theorem Emits.keeps {α : Type} {s t : State} (h : Emits s t) (f : State → α) (hf : ∀ u : State, f u.emitView = f u) :
    f t = f s := by
  rw [← hf t, h.frame, hf s]

/-- Whatever depends on no field that an operation of a run may change is kept by it. -/
theorem Operates.keeps {α : Type} {s t : State} (h : Operates s t) (f : State → α)
    (hf : ∀ u : State, f u.runView = f u) : f t = f s := by
  rw [← hf t, h.frame, hf s]

theorem Emits.operates {s t : State} (h : Emits s t) : Operates s t :=
  ⟨h.keeps State.runView fun _ => rfl, h.bytes⟩

theorem State.emit_operates (s : State) (code : Code) : (s.emit code).All (Operates s) :=
  (s.emit_emits code).imp fun _ h => h.operates

/-! ### The pieces of the operations -/

theorem State.nextPixel_operates {s t : State} {eos : Bool} {c : Byte} (h : s.nextPixel = (eos, c, t)) : Operates s t := by
  rcases s.nextPixel_cases with ⟨_, hn⟩ | ⟨_, c, d, _, hn⟩ <;> cases hn.symm.trans h
  · exact Operates.refl s
  · exact Operates.of_frame rfl rfl rfl

theorem State.firstPixel_operates (s : State) : Operates s s.firstPixel := by
  unfold State.firstPixel
  rcases s.nextPixel_cases with ⟨_, h⟩ | ⟨_, c, d, _, h⟩ <;> rw [h] <;> exact Operates.of_frame rfl rfl rfl

theorem State.withLookup_operates (s : State) (k : Code → Slot → Key → Byte → State → Flow)
    (hk : ∀ code slot key c t, (k code slot key c t).All (Operates t)) : (s.withLookup k).All (Operates s) := by
  unfold State.withLookup
  rcases hn : s.nextPixel with ⟨eos, c, t⟩
  have next := State.nextPixel_operates hn
  dsimp only
  split
  · exact (hk _ _ _ _ t).imp fun _ h => next.trans h
  · exact (hk _ _ _ _ t).imp fun _ h => next.trans h
  · exact next

theorem State.pixelHit_operates (s : State) : s.pixelHit.All (Operates s) :=
  s.withLookup_operates _ fun _ _ _ _ _ => Operates.of_frame rfl rfl rfl

theorem State.pixelMissInsert_operates (s : State) : s.pixelMissInsert.All (Operates s) :=
  s.withLookup_operates _ fun _ _ _ _ t =>
    Operates.andThen (t.emit_operates t.ent) fun _ => Operates.of_frame rfl rfl rfl

theorem State.pixelMissFull_operates (s : State) : s.pixelMissFull.All (Operates s) :=
  s.withLookup_operates _ fun _ _ _ _ t =>
    Operates.andThen (t.emit_operates t.ent) fun _ => Operates.of_frame rfl rfl rfl

theorem State.clearBlock_operates (s : State) : s.clearBlock.All (Operates s) := by
  unfold State.clearBlock
  refine Operates.andThen ((State.emit_operates _ _).imp fun _ h => Operates.trans ?_ h) fun _ => ?_
  · exact Operates.of_frame rfl rfl rfl
  · exact Operates.of_frame rfl rfl rfl

theorem State.finish_operates (s : State) : s.finish.All (Operates s) := by
  unfold State.finish
  refine Operates.andThen ?_ fun t => Operates.andThen (t.emit_operates _) fun u => Operates.andThen ?_ fun v => ?_
  · split
    · exact s.emit_operates _
    · exact Operates.refl s
  · exact (u.sinkWrite_emits _).imp fun _ h => h.operates
  · exact Operates.of_frame rfl rfl rfl

/-- START_OK (43_driver.md rule R153): the constants of the run and OUTCOUNT are set before the first byte, and from there on it is an
operation as the others. -/
theorem State.startOk_operates (s : State) : s.startOk.All (Operates s.startRun) := by
  unfold State.startOk
  refine Operates.andThen ((State.sinkWrite_emits _ _).imp fun _ h => h.operates) fun t => Operates.andThen ?_ fun v => ?_
  · have first : Operates t t.freshRun.firstPixel :=
      Operates.trans (t := t.freshRun) (Operates.of_frame rfl rfl rfl) t.freshRun.firstPixel_operates
    exact (State.emit_operates _ _).imp fun _ h => first.trans h
  · exact Operates.of_frame rfl rfl rfl

/-! ### How an operation ends -/

/-- The end of an operation keeps what its actions kept, as far as the state before it agrees. -/
theorem Flow.settle_keeps {α : Type} {r : Flow} {before base : State} (hr : r.All (Operates base)) (f : State → α)
    (hf : ∀ u : State, f u.runView = f u) (hb : f before = f base) : f (r.settle before) = f base := by
  have same : ∀ t u : State, t.runView = u.runView → f t = f u := fun t u h => by rw [← hf t, h, hf u]
  rcases r.settle_cases before with ⟨t, rfl, h⟩ | ⟨t, rfl, h⟩ | ⟨w, t, rfl, h⟩ <;> rw [h]
  · exact Operates.keeps hr f hf
  · exact (same (t.raise .sinkFailure) t rfl).trans (Operates.keeps hr f hf)
  · exact (same (before.enterStuck t w) before rfl).trans hb

/-- An operation that ends has counted the bytes it output, also where it raised SinkFailure (R34, R244). -/
theorem Flow.settle_bytes {r : Flow} {before base : State} (hr : r.All (Operates base))
    (hs : (r.settle before).stuck = none) :
    ∃ bs : List Byte, (r.settle before).sinkOut = base.sinkOut ++ bs ∧
      (r.settle before).outCount = base.outCount + BitVec.ofNat 32 bs.length := by
  rcases r.settle_cases before with ⟨t, rfl, h⟩ | ⟨t, rfl, h⟩ | ⟨w, t, rfl, h⟩ <;> rw [h] at hs ⊢
  · exact Operates.bytes (t := t) hr
  · exact Operates.bytes (t := t) hr
  · simp at hs

/-- An operation that may call BYTE_OUT answers a next state only where A_COUNT leaves it room (log 13). -/
theorem State.withRoom_next {s t : State} {r : Flow} (h : s.withRoom r = .next t) :
    s.aCount.toNat ≤ 253 ∧ r.settle s = t := by
  unfold State.withRoom at h
  split at h
  case isTrue hroom =>
    cases h
    exact ⟨by simp only [Config.blockMax] at hroom; omega, rfl⟩
  case isFalse => cases h

theorem exec_dictLookup_next {s t : State} {ent : Code} {c : Byte} (h : exec (.dictLookup ent c) s = .next t) :
    (∃ r, t = { s with result := r }) ∨ t = s.enterStuck s .probe := by
  change execDictLookup ent c s = .next t at h
  unfold execDictLookup at h
  replace h := Host.Outcome.next.inj h
  cases hl : s.dictLookup ent c <;> rw [hl] at h
  · exact .inl ⟨_, h.symm⟩
  · exact .inl ⟨_, h.symm⟩
  · exact .inr h.symm

theorem exec_dictInsert_next {s t : State} {slot : Slot} {fcode : Key} {code : Code}
    (h : exec (.dictInsert slot fcode code) s = .next t) : t = s.dictInsert slot.toNat fcode code := by
  change execDictInsert slot fcode code s = .next t at h
  unfold execDictInsert at h
  split at h <;> cases h
  rfl

theorem exec_blockFlush_next {s t : State} (h : exec .blockFlush s = .next t) : t = s.blockFlush.settle s := by
  change execBlockFlush s = .next t at h
  unfold execBlockFlush at h
  split at h <;> cases h
  rfl

/-- Every operation of a run is a sequence of actions that keeps the host's part of the state, and its end. -/
theorem exec_ofRun {i : Instr} {s t : State} (h : exec i s = .next t) (hi : i.ofRun = true) :
    ∃ r : Flow, r.All (Operates s) ∧ r.settle s = t := by
  have flow : ∀ r : Flow, r.All (Operates s) → Host.Outcome.next (r.settle s) = exec i s →
      ∃ r : Flow, r.All (Operates s) ∧ r.settle s = t :=
    fun r hr hx => ⟨r, hr, Host.Outcome.next.inj (hx.trans h)⟩
  have room : ∀ r : Flow, r.All (Operates s) → s.withRoom r = exec i s →
      ∃ r : Flow, r.All (Operates s) ∧ r.settle s = t :=
    fun r hr hx => ⟨r, hr, (State.withRoom_next (hx.trans h)).2⟩
  cases i with
  | startInvalid => cases hi
  | startOk => cases hi
  | csrWrite idx wdata => cases hi
  | reset => cases hi
  | pixelHit => exact flow _ s.pixelHit_operates rfl
  | pixelMissInsert => exact room _ s.pixelMissInsert_operates rfl
  | pixelMissFull => exact room _ s.pixelMissFull_operates rfl
  | finish => exact room _ s.finish_operates rfl
  | clearBlock => exact room _ s.clearBlock_operates rfl
  | csrRead idx => exact flow (.ok { s with rdata := s.csrValue idx }) (Operates.of_frame rfl rfl rfl) rfl
  | nextPixel =>
    exact flow (.ok { s.nextPixel.2.2 with result := .pixel s.nextPixel.1 s.nextPixel.2.1 })
      ((State.nextPixel_operates rfl).trans (Operates.of_frame rfl rfl rfl)) rfl
  | dictClear => exact flow (.ok s.dictClear) (Operates.of_frame rfl rfl rfl) rfl
  | dictHash ent c =>
    exact flow (.ok { s with result := .hash (fcodeOf ent c) (primarySlot ent c) }) (Operates.of_frame rfl rfl rfl) rfl
  | dictLookup ent c =>
    rcases exec_dictLookup_next h with ⟨r, rfl⟩ | rfl
    · exact ⟨.ok { s with result := r }, Operates.of_frame rfl rfl rfl, rfl⟩
    · exact ⟨.stuck .probe s, Operates.refl s, rfl⟩
  | dictInsert slot fcode code =>
    exact ⟨.ok (s.dictInsert slot.toNat fcode code), Operates.of_frame rfl rfl rfl, (exec_dictInsert_next h).symm⟩
  | emit code => exact room _ (s.emit_operates code) rfl
  | byteOut b => exact room _ ((s.byteOut_emits b).imp fun _ h => h.operates) rfl
  | blockFlush => exact ⟨_, s.blockFlush_emits.imp fun _ h => h.operates, (exec_blockFlush_next h).symm⟩
  | headerOut init => exact flow _ ((s.sinkWrite_emits _).imp fun _ h => h.operates) rfl
  | terminatorOut => exact flow _ ((s.sinkWrite_emits _).imp fun _ h => h.operates) rfl
  | sinkWrite b => exact flow _ ((s.sinkWrite_emits b).imp fun _ h => h.operates) rfl
  | validate => exact flow (.ok { s with result := .reasons s.validate }) (Operates.of_frame rfl rfl rfl) rfl

/-- Whatever a step of the run keeps, said of the operation (R23 to R25). -/
theorem exec_keeps {α : Type} {i : Instr} {s t : State} (h : exec i s = .next t) (hi : i.ofRun = true)
    (f : State → α) (hf : ∀ u : State, f u.runView = f u) : f t = f s := by
  obtain ⟨r, hr, rfl⟩ := exec_ofRun h hi
  exact Flow.settle_keeps hr f hf rfl

/-- START_OK keeps what does not depend on the constants of the run either. -/
theorem exec_startOk_keeps {α : Type} {s t : State} (h : exec .startOk s = .next t)
    (f : State → α) (hf : ∀ u : State, f u.runView = f u) (hs : f s.startRun = f s) : f t = f s := by
  cases h
  exact (Flow.settle_keeps s.startOk_operates f hf hs.symm).trans hs

/-- The host's configuration (10_state.md rules R45 to R48). -/
def State.configuration (s : State) : BitVec 16 × BitVec 16 × BitVec 8 × Word := (s.width, s.height, s.depth, s.buflen)

/-- The latched configuration (10_state.md rule R23). -/
def State.latched (s : State) : BitVec 16 × BitVec 16 × BitVec 8 × Word := (s.lWidth, s.lHeight, s.lDepth, s.lBuflen)

/-- The constants of the run (10_state.md rules R24, R25). -/
def State.runConstants (s : State) : BitVec 4 × BitVec 9 × BitVec 9 × Word := (s.init, s.clear, s.eofc, s.n)

/-- A CSR write (R232): START while not BUSY latches the configuration, and any other write reaches the configuration at most. -/
theorem State.csrStore_cases (s : State) (idx : BitVec 4) (wdata : Word) :
    (idx = 0#4 ∧ s.busy = false ∧ s.csrStore idx wdata = { s with
      lWidth := s.width, lHeight := s.height, lDepth := s.depth, lBuflen := s.buflen, startReq := true, pixDirty := [] }) ∨
    ∃ w h d b, s.csrStore idx wdata = { s with width := w, height := h, depth := d, buflen := b } := by
  unfold State.csrStore
  split
  case h_1 hidx =>
    unfold State.startCommand
    split_ifs with _ hbusy
    · exact .inr ⟨_, _, _, _, rfl⟩
    · exact .inl ⟨BitVec.eq_of_toNat_eq hidx, by simpa using hbusy, rfl⟩
    · exact .inr ⟨_, _, _, _, rfl⟩
  all_goals exact .inr ⟨_, _, _, _, rfl⟩

end Sys2Proof.Machine

open Sys2Proof Sys2Proof.Machine

/-- Settles O49: only a CSR write and RESET reach the configuration, and of the writes only START the latched one. -/
theorem configurationChangesOnlyByTheHost : Obligations.ConfigurationChangesOnlyByTheHost := by
  intro i s t h hreset
  have config : (∀ idx wdata, i ≠ .csrWrite idx wdata) → t.configuration = s.configuration := fun hwrite => by
    rcases i.ofRun_or with hi | rfl | rfl | rfl | ⟨idx, wdata, rfl⟩
    · exact exec_keeps h hi _ fun _ => rfl
    · cases h; rfl
    · exact exec_startOk_keeps h _ (fun _ => rfl) rfl
    · exact absurd rfl hreset
    · exact absurd rfl (hwrite idx wdata)
  have latch : (∀ wdata, i ≠ .csrWrite 0#4 wdata) → t.latched = s.latched := fun hstart => by
    rcases i.ofRun_or with hi | rfl | rfl | rfl | ⟨idx, wdata, rfl⟩
    · exact exec_keeps h hi _ fun _ => rfl
    · cases h; rfl
    · exact exec_startOk_keeps h _ (fun _ => rfl) rfl
    · exact absurd rfl hreset
    · cases h
      rcases s.csrStore_cases idx wdata with ⟨rfl, _, _⟩ | ⟨_, _, _, _, h⟩
      · exact absurd rfl (hstart wdata)
      · rw [h]; rfl
  simpa [State.configuration, State.latched] using And.intro config latch

/-- Settles O50: of the operations other than RESET only START_OK sets a constant of the run. -/
theorem runConstantsChangeOnlyAtStartOk : Obligations.RunConstantsChangeOnlyAtStartOk := by
  intro i s t h hstart hreset
  have constants : t.runConstants = s.runConstants := by
    rcases i.ofRun_or with hi | rfl | rfl | rfl | ⟨idx, wdata, rfl⟩
    · exact exec_keeps h hi _ fun _ => rfl
    · cases h; rfl
    · exact absurd rfl hstart
    · exact absurd rfl hreset
    · cases h
      rcases s.csrStore_cases idx wdata with ⟨_, _, h⟩ | ⟨_, _, _, _, h⟩ <;> rw [h] <;> rfl
  simpa [State.runConstants] using constants

/-- Settles O52: the actions of an operation count the bytes they output, START_OK's from the 0 that it sets first. -/
theorem outcountCountsAcceptedBytes : Obligations.OutcountCountsAcceptedBytes := by
  intro i s t h hinvalid hreset hstuck
  rcases i.ofRun_or with hi | rfl | rfl | rfl | ⟨idx, wdata, rfl⟩
  · obtain ⟨r, hr, rfl⟩ := exec_ofRun h hi
    rw [if_neg (by rintro rfl; cases hi)]
    exact Flow.settle_bytes hr hstuck
  · exact absurd rfl hinvalid
  · cases h
    rw [if_pos rfl]
    exact Flow.settle_bytes s.startOk_operates hstuck
  · exact absurd rfl hreset
  · cases h
    rcases s.csrStore_cases idx wdata with ⟨_, _, h⟩ | ⟨_, _, _, _, h⟩ <;> exact ⟨[], by simp [h], by simp [h]⟩
end

section
/-! PROOFS. What an emission that goes on leaves in the packer and the block (44_bit_packer.md rules R190 to R195, 45_block_writer.md
rules R210, R211): the ranges of R33, R36 and R193, and the width the update gives. -/

namespace Sys2Proof.Machine

/-- P holds of the state in which the actions ended, if they went on to their end. -/
def Flow.OnOk (P : State → Prop) (r : Flow) : Prop := ∀ t, r = .ok t → P t

@[simp] theorem Flow.onOk_ok {P : State → Prop} {s : State} : (Flow.ok s).OnOk P ↔ P s :=
  ⟨fun h => h s rfl, fun h _ ht => Flow.ok.inj ht ▸ h⟩

@[simp] theorem Flow.onOk_raised {P : State → Prop} {s : State} : (Flow.raised s).OnOk P := nofun

@[simp] theorem Flow.onOk_stuck {P : State → Prop} {w : Stuck} {s : State} : (Flow.stuck w s).OnOk P := nofun

theorem Flow.OnOk.andThen {P Q : State → Prop} {r : Flow} {f : State → Flow} (hr : r.OnOk P)
    (hf : ∀ s, P s → (f s).OnOk Q) : (r.andThen f).OnOk Q := by
  cases r with
  | ok s => exact hf s (Flow.onOk_ok.1 hr)
  | raised s => exact Flow.onOk_raised
  | stuck w s => exact Flow.onOk_stuck

theorem Flow.OnOk.imp {P Q : State → Prop} {r : Flow} (hr : r.OnOk P) (h : ∀ s, P s → Q s) : r.OnOk Q :=
  fun t ht => h t (hr t ht)

theorem Flow.OnOk.and {P Q : State → Prop} {r : Flow} (hp : r.OnOk P) (hq : r.OnOk Q) : r.OnOk fun t => P t ∧ Q t :=
  fun t ht => ⟨hp t ht, hq t ht⟩

theorem Flow.All.onOk {P : State → Prop} {r : Flow} (h : r.All P) : r.OnOk P := by
  rintro t rfl
  exact h

/-! ### The Block Writer leaves the packer alone -/

/-- The packer's registers: N_BITS, MAX_CODE, CLEAR_FLAG, ACC and BITS. -/
def State.packer (s : State) : BitVec 4 × BitVec 12 × Bool × BitVec 19 × BitVec 5 :=
  (s.nBits, s.maxCode, s.clearFlag, s.acc, s.bits)

theorem State.sinkWrite_packer (s : State) (b : Byte) :
    (s.sinkWrite b).All fun t => t.packer = s.packer ∧ t.aCount = s.aCount := by
  unfold State.sinkWrite State.takeAnswer
  cases s.sinkAnswers with
  | nil => cases hc : Config.sinkAnswer s.draws <;> exact ⟨rfl, rfl⟩
  | cons a rest => cases a <;> exact ⟨rfl, rfl⟩

theorem State.sinkWriteAll_packer (s : State) (bs : List Byte) : (s.sinkWriteAll bs).All fun t => t.packer = s.packer := by
  induction bs generalizing s with
  | nil => rfl
  | cons b rest ih =>
    exact Flow.andThen_all ((s.sinkWrite_packer b).imp fun _ h => h.1) fun t ht => (ih t).imp fun _ hu => hu.trans ht

/-- After BLOCK_FLUSH the block is empty (R211). -/
theorem State.blockFlush_onOk (s : State) : s.blockFlush.OnOk fun t => t.packer = s.packer ∧ t.aCount = 0#8 := by
  unfold State.blockFlush
  split
  case isTrue => exact (s.sinkWriteAll_packer _).onOk.andThen fun t ht => Flow.onOk_ok.2 ⟨ht, rfl⟩
  case isFalse hempty => exact Flow.onOk_ok.2 ⟨rfl, BitVec.eq_of_toNat_eq (Nat.eq_zero_of_not_pos hempty)⟩

/-- After BYTE_OUT the block has room for one more byte (R33, R210). -/
theorem State.byteOut_onOk (s : State) (b : Byte) (h : s.aCount.toNat ≤ 253) :
    (s.byteOut b).OnOk fun t => t.packer = s.packer ∧ t.aCount.toNat ≤ 253 := by
  have pushed : (s.pushByte b).aCount.toNat = s.aCount.toNat + 1 := by
    rw [State.pushByte_aCount, BitVec.toNat_add]
    exact Nat.mod_eq_of_lt (by simp; omega)
  unfold State.byteOut
  split
  case isTrue => exact (State.blockFlush_onOk _).imp fun t ht => ⟨ht.1, by rw [ht.2]; decide⟩
  case isFalse hroom => exact Flow.onOk_ok.2 ⟨rfl, by simp only [Config.blockMax] at hroom; omega⟩

/-! ### The Bit Packer -/

/-- The width registers: N_BITS, MAX_CODE and CLEAR_FLAG. -/
def State.widths (s : State) : BitVec 4 × BitVec 12 × Bool := (s.nBits, s.maxCode, s.clearFlag)

theorem widths_of_packer {s t : State} (h : t.packer = s.packer) : t.widths = s.widths :=
  congrArg (fun p : BitVec 4 × BitVec 12 × Bool × BitVec 19 × BitVec 5 => (p.1, p.2.1, p.2.2.1)) h

theorem acc_of_packer {s t : State} (h : t.packer = s.packer) : t.acc = s.acc := congrArg (·.2.2.2.1) h

theorem bits_of_packer {s t : State} (h : t.packer = s.packer) : t.bits = s.bits := congrArg (·.2.2.2.2) h

/-- The ranges of the bit accumulator and of the block between two emissions (R33, R36, R193). -/
structure State.PackInv (s : State) : Prop where
  bits_range : s.bits.toNat ≤ 7
  acc_range : s.acc.toNat < 2 ^ s.bits.toNat
  aCount_range : s.aCount.toNat ≤ 253

theorem State.appendCode_bits_toNat (s : State) (code : Code) (h : s.packed) :
    (s.appendCode code).bits.toNat = s.bits.toNat + s.nBits.toNat := by
  obtain ⟨hbits, _, hn⟩ := h
  simp only [State.appendCode_bits, BitVec.toNat_ofNat]
  omega

/-- The packed value has no bit above those held (R191, R193). -/
theorem State.packedValue_lt (s : State) (code : Code) (h : s.packed) :
    s.packedValue code < 2 ^ (s.bits.toNat + s.nBits.toNat) := by
  obtain ⟨_, hacc, _⟩ := h
  have hcode : code.toNat % 2 ^ s.nBits.toNat + 1 ≤ 2 ^ s.nBits.toNat := Nat.mod_lt _ (Nat.two_pow_pos _)
  calc s.packedValue code < 2 ^ s.bits.toNat + code.toNat % 2 ^ s.nBits.toNat * 2 ^ s.bits.toNat :=
        Nat.add_lt_add_right hacc _
    _ = (code.toNat % 2 ^ s.nBits.toNat + 1) * 2 ^ s.bits.toNat := by ring
    _ ≤ 2 ^ s.nBits.toNat * 2 ^ s.bits.toNat := Nat.mul_le_mul_right _ hcode
    _ = 2 ^ (s.bits.toNat + s.nBits.toNat) := by rw [Nat.add_comm, Nat.pow_add]

theorem State.appendCode_acc_toNat (s : State) (code : Code) (h : s.packed) :
    (s.appendCode code).acc.toNat = s.packedValue code := by
  have hlt := s.packedValue_lt code h
  obtain ⟨hbits, _, hn⟩ := h
  have hwide : 2 ^ (s.bits.toNat + s.nBits.toNat) ≤ 2 ^ 19 := Nat.pow_le_pow_right (by decide) (by omega)
  simp only [State.appendCode_acc, BitVec.toNat_ofNat, Nat.shiftLeft_eq]
  exact Nat.mod_eq_of_lt (by unfold State.packedValue at hlt; omega)

/-- k complete bytes have left: the bits above them are what is held (R192). -/
theorem State.drain_onOk (k : Nat) (s : State) (hk : 8 * k ≤ s.bits.toNat) (hacc : s.acc.toNat < 2 ^ s.bits.toNat)
    (hroom : s.aCount.toNat ≤ 253) :
    (s.drain k).OnOk fun t => t.widths = s.widths ∧ t.bits.toNat = s.bits.toNat - 8 * k ∧
      t.acc.toNat < 2 ^ t.bits.toNat ∧ t.aCount.toNat ≤ 253 := by
  induction k generalizing s with
  | zero => exact Flow.onOk_ok.2 ⟨rfl, rfl, hacc, hroom⟩
  | succ k ih =>
    refine (s.byteOut_onOk _ hroom).andThen fun t ⟨hp, hr⟩ => ?_
    have hbits : t.dropByte.bits.toNat = s.bits.toNat - 8 := by
      have hle : 8#5 ≤ s.bits := BitVec.le_def.2 (by simp only [BitVec.toNat_ofNat]; omega)
      rw [State.dropByte_bits, bits_of_packer hp, BitVec.toNat_sub_of_le hle]
      rfl
    have hlow : t.dropByte.acc.toNat < 2 ^ t.dropByte.bits.toNat := by
      rw [hbits, State.dropByte_acc, acc_of_packer hp, BitVec.toNat_ushiftRight, Nat.shiftRight_eq_div_pow]
      refine Nat.div_lt_of_lt_mul ?_
      rwa [← Nat.pow_add, Nat.add_sub_cancel' (by omega)]
    have widths : t.dropByte.widths = s.widths := widths_of_packer (t := t) hp
    exact (ih t.dropByte (by omega) hlow hr).imp fun u ⟨hw, hb, ha, hc⟩ => ⟨hw.trans widths, by omega, ha, hc⟩

/-- The width update reads CLEAR_FLAG, INIT, FREE_ENT and the width registers, and writes the width registers (R194, R197). -/
theorem State.updateWidth_congr {s t : State} (hw : t.widths = s.widths) (hi : t.init = s.init) (hf : t.freeEnt = s.freeEnt) :
    t.updateWidth.widths = s.updateWidth.widths := by
  simp only [State.widths, Prod.mk.injEq] at hw
  obtain ⟨hn, hm, hc⟩ := hw
  unfold State.updateWidth
  rw [hn, hm, hc, hi, hf]
  split_ifs <;> simp [State.widths, hn, hm, hc]

theorem State.updateWidth_pack (s : State) :
    (s.updateWidth.bits, s.updateWidth.acc, s.updateWidth.aCount) = (s.bits, s.acc, s.aCount) := by
  unfold State.updateWidth
  split_ifs <;> rfl

/-- The flush at EOFC leaves nothing pending (R195). -/
theorem State.eofFlush_onOk (s : State) (hroom : s.aCount.toNat ≤ 253) :
    s.eofFlush.OnOk fun t => t.widths = s.widths ∧ t.bits = 0#5 ∧ t.acc = 0#19 ∧ t.aCount = 0#8 := by
  have partialByte : (if 0 < s.bits.toNat then s.byteOut (s.acc.setWidth 8) else .ok s).OnOk
      fun t => t.widths = s.widths := by
    split
    · exact (s.byteOut_onOk _ hroom).imp fun t ht => widths_of_packer ht.1
    · exact Flow.onOk_ok.2 rfl
  unfold State.eofFlush
  exact partialByte.andThen fun t ht => t.clearAcc.blockFlush_onOk.imp fun u ⟨hu, hc⟩ =>
    ⟨(widths_of_packer hu).trans ht, bits_of_packer hu, acc_of_packer hu, hc⟩

/-- EMIT (R190) from the ranges of a run: it keeps them, updates the width once, and at EOFC leaves nothing pending. -/
theorem State.emit_onOk (s : State) (code : Code) (hp : s.PackInv) (hn : s.nBits.toNat ≤ 12) :
    (s.emit code).OnOk fun t => t.PackInv ∧ t.widths = s.updateWidth.widths ∧
      (code.toNat = s.eofc.toNat → t.bits = 0#5 ∧ t.acc = 0#19 ∧ t.aCount = 0#8) := by
  have packed : s.packed := ⟨hp.bits_range, hp.acc_range, hn⟩
  have held := s.appendCode_bits_toNat code packed
  have drained := State.drain_onOk ((s.appendCode code).bits.toNat / 8) (s.appendCode code) (by omega)
    (by rw [held, s.appendCode_acc_toNat code packed]; exact s.packedValue_lt code packed) hp.aCount_range
  unfold State.emit
  refine (drained.and (State.drain_emits _ _).onOk).andThen fun u ⟨⟨hw, hbits, hacc, hroom⟩, hu⟩ => ?_
  have widths : u.updateWidth.widths = s.updateWidth.widths :=
    State.updateWidth_congr hw (hu.keeps State.init fun _ => rfl) (hu.keeps State.freeEnt fun _ => rfl)
  have eofc : u.updateWidth.eofc = s.eofc := (hu.trans u.updateWidth_emits).keeps State.eofc fun _ => rfl
  have pack := u.updateWidth_pack
  simp only [Prod.mk.injEq] at pack
  obtain ⟨b, a, c⟩ := pack
  dsimp only
  split
  case isTrue =>
    refine (State.eofFlush_onOk _ (by rw [c]; exact hroom)).imp fun t ⟨htw, htb, hta, htc⟩ =>
      ⟨⟨?_, ?_, ?_⟩, htw.trans widths, ?_⟩
    · rw [htb]; decide
    · rw [htb, hta]; decide
    · rw [htc]; decide
    · exact fun _ => ⟨htb, hta, htc⟩
  case isFalse hcode =>
    refine Flow.onOk_ok.2 ⟨⟨?_, ?_, ?_⟩, widths, ?_⟩
    · rw [b]; omega
    · rw [a, b]; exact hacc
    · rw [c]; exact hroom
    · exact fun h => absurd (h.trans (congrArg BitVec.toNat eofc.symm)) hcode

end Sys2Proof.Machine
end

section
/-! PROOFS. The ranges of a run (10_state.md rule R36) through each of the engine's operations. -/

namespace Sys2Proof.Machine

/-! ### The ranges of a run and an emission -/

/-- The ranges of R36 apart from CLEAR_FLAG and from what STATE asks: what an emission starts from, in START_OK and CLEAR_BLOCK too. -/
def State.InRanges (s : State) : Prop := ({ s with state := stRunning, clearFlag := false } : State).RunInv

theorem State.RunInv.inRanges {s : State} (h : s.RunInv) : s.InRanges :=
  { h with clearFlag_eq := rfl, clearing_full := nofun }

theorem State.InRanges.runInv {s : State} (h : s.InRanges) (hf : s.clearFlag = false)
    (hc : s.state = stClearing → s.freeEnt.toNat = 4096) : s.RunInv :=
  { h with clearFlag_eq := hf, clearing_full := hc }

theorem State.InRanges.packInv {s : State} (h : s.InRanges) : s.PackInv :=
  ⟨h.bits_range, h.acc_range, h.aCount_range⟩

theorem maxCodeOf_toNat {nBits : BitVec 4} (h : nBits.toNat ≤ 12) : (maxCodeOf nBits).toNat = 2 ^ nBits.toNat - 1 := by
  have : 2 ^ nBits.toNat ≤ 2 ^ 12 := Nat.pow_le_pow_right (by decide) h
  simp only [maxCodeOf, BitVec.toNat_ofNat]
  omega

theorem initWidth_toNat {init : BitVec 4} (h : init.toNat ≤ 8) : (initWidth init).toNat = init.toNat + 1 := by
  simp only [initWidth, BitVec.toNat_ofNat]
  omega

theorem firstFree_toNat {clear : BitVec 9} (h : clear.toNat ≤ 256) : (firstFree clear).toNat = clear.toNat + 2 := by
  simp only [firstFree, BitVec.toNat_ofNat]
  omega

/-- FIRST_FREE fits the initial width: CLEAR + 2 ≤ MAX_CODE (R36). -/
theorem firstFree_le_maxCode {init clear : Nat} (h : 2 ≤ init) (hc : clear = 2 ^ init) : clear + 2 ≤ 2 ^ (init + 1) - 1 := by
  have : 2 ^ 2 ≤ 2 ^ init := Nat.pow_le_pow_right (by decide) h
  have : 2 ^ (init + 1) = 2 * 2 ^ init := by rw [Nat.pow_succ, Nat.mul_comm]
  omega

/-- Another width that FREE_ENT fits keeps the ranges. -/
theorem State.InRanges.withWidth {s : State} (h : s.InRanges) {w : BitVec 4} (flag : Bool)
    (hw : s.init.toNat + 1 ≤ w.toNat ∧ w.toNat ≤ 12) (hfit : s.freeEnt.toNat ≤ 2 ^ w.toNat - 1) :
    ({ s with nBits := w, maxCode := maxCodeOf w, clearFlag := flag } : State).InRanges ∧
      s.freeEnt.toNat ≤ (maxCodeOf w).toNat := by
  have hm := maxCodeOf_toNat hw.2
  exact ⟨{ h with nBits_range := hw, maxCode_eq := hm, freeEnt_fits := by dsimp only; omega }, by omega⟩

/-- The width update (R194, R197) keeps the ranges, clears CLEAR_FLAG and leaves a width that FREE_ENT fits, unless the code space is
full. After a clear FREE_ENT is FIRST_FREE. -/
theorem State.InRanges.updateWidth {s : State} (h : s.InRanges)
    (hc : s.clearFlag = true → s.freeEnt.toNat = s.clear.toNat + 2) :
    s.updateWidth.InRanges ∧ s.updateWidth.clearFlag = false ∧
      (s.updateWidth.freeEnt.toNat ≤ s.updateWidth.maxCode.toNat ∨ s.updateWidth.freeEnt.toNat = 4096) := by
  obtain ⟨hi2, hi8⟩ : 2 ≤ s.init.toNat ∧ s.init.toNat ≤ 8 := h.init_range
  obtain ⟨hnlo, hnhi⟩ : s.init.toNat + 1 ≤ s.nBits.toNat ∧ s.nBits.toNat ≤ 12 := h.nBits_range
  have hmax : s.maxCode.toNat = 2 ^ s.nBits.toNat - 1 := h.maxCode_eq
  have hfree : s.freeEnt.toNat ≤ 4096 := h.freeEnt_range.2
  have hfits : s.freeEnt.toNat ≤ s.maxCode.toNat + 1 := h.freeEnt_fits
  unfold State.updateWidth
  split_ifs with hflag hwide
  · have hw := initWidth_toNat hi8
    obtain ⟨hr, hle⟩ := h.withWidth (w := initWidth s.init) false (by omega)
      (by rw [hc hflag, hw]; exact firstFree_le_maxCode hi2 h.clear_eq)
    exact ⟨hr, rfl, .inl hle⟩
  · have hover : s.maxCode.toNat < s.freeEnt.toNat := hwide.1
    have hlt : s.nBits.toNat < 12 := hwide.2
    have hw : (s.nBits + 1#4).toNat = s.nBits.toNat + 1 :=
      BitVec.toNat_add_of_lt (by simp only [BitVec.toNat_ofNat]; omega)
    have hpow : 2 ^ (s.nBits.toNat + 1) = 2 * 2 ^ s.nBits.toNat := by rw [Nat.pow_succ, Nat.mul_comm]
    have hpos := Nat.two_pow_pos s.nBits.toNat
    obtain ⟨hr, hle⟩ := h.withWidth (w := s.nBits + 1#4) s.clearFlag (by omega) (by rw [hw, hpow]; omega)
    exact ⟨hr, Bool.eq_false_of_not_eq_true hflag, .inl hle⟩
  · refine ⟨h, Bool.eq_false_of_not_eq_true hflag, ?_⟩
    by_cases hover : s.maxCode.toNat < s.freeEnt.toNat
    · have hn : s.nBits.toNat = 12 := by
        have : ¬ s.nBits.toNat < 12 := fun hlt => hwide ⟨hover, hlt⟩
        omega
      rw [hn] at hmax
      exact .inr (by omega)
    · exact .inl (Nat.le_of_not_lt hover)

/-- States that agree on the width registers and outside the packer, the block and the sink differ in those alone. -/
theorem State.eq_of_emitView {s t : State} (h : t.emitView = s.emitView) (hw : t.widths = s.widths) :
    t = { s with
      acc := t.acc, bits := t.bits, aCount := t.aCount, outCount := t.outCount, bb := t.bb, sinkOut := t.sinkOut,
      sinkAnswers := t.sinkAnswers, draws := t.draws } := by
  cases s
  cases t
  simp only [State.emitView, State.widths, State.mk.injEq, Prod.mk.injEq] at h hw ⊢
  tauto

/-- From s an emission has gone on to its end in t. -/
structure Emitted (s t : State) : Prop extends Emits s t where
  ranges : t.InRanges
  clearFlag_eq : t.clearFlag = false
  width_fits : t.freeEnt.toNat ≤ t.maxCode.toNat ∨ t.freeEnt.toNat = 4096

/-- EMIT (44_bit_packer.md rule R190) keeps the ranges of a run. -/
theorem State.InRanges.emit {s : State} (h : s.InRanges) (hc : s.clearFlag = true → s.freeEnt.toNat = s.clear.toNat + 2)
    (code : Code) : (s.emit code).OnOk (Emitted s) := by
  obtain ⟨hr, hflag, hfit⟩ := h.updateWidth hc
  refine ((s.emit_onOk code h.packInv h.nBits_range.2).and (s.emit_emits code).onOk).imp fun t ⟨⟨hp, hw, _⟩, he⟩ => ?_
  have ht := State.eq_of_emitView (he.frame.trans s.updateWidth_emits.frame.symm) hw
  generalize s.updateWidth = u at hr hflag hfit ht
  refine { he with ranges := ?_, clearFlag_eq := ?_, width_fits := ?_ }
  · rw [ht]
    exact { hr with bits_range := hp.bits_range, acc_range := hp.acc_range, aCount_range := hp.aCount_range }
  · rw [ht]; exact hflag
  · rw [ht]; exact hfit

/-! ### The table (R136, R137) -/

@[simp] theorem State.occupied_dictClear (s : State) : s.dictClear.occupied = 0 := by
  unfold State.occupied
  rw [State.dictClear_ht, Vector.toList_replicate, List.countP_replicate]
  rfl

/-- An insertion in an EMPTY slot occupies one more. -/
theorem State.occupied_dictInsert (s : State) {i : Nat} (k : Key) (c : Code) (hi : i < Config.hSize) (hk : s.key i = none) :
    (s.dictInsert i k c).occupied = s.occupied + 1 := by
  have hslot : s.ht[i] = none := by simpa only [State.key, hi, dite_true] using hk
  unfold State.occupied
  rw [State.dictInsert_ht, putAt, dif_pos hi, Vector.toList_set, List.countP_set (by simpa using hi)]
  simp [hslot]

/-! ### The beginning of a pixel step -/

/-- NEXT_PIXEL before the end of the stream keeps the ranges: CURSOR stays at most N (R26, R120). -/
theorem State.RunInv.advance {s : State} (h : s.RunInv) (hne : s.cursor ≠ s.n) (d : Nat) : (s.withDraws d).advance.RunInv := by
  have hcursor := h.cursor_range
  have hvalid : s.entValid = true := by
    by_contra hv
    rw [if_neg hv] at hcursor
    exact hne (hcursor.1.trans hcursor.2.symm)
  rw [if_pos hvalid] at hcursor
  have hlt : s.cursor.toNat < s.n.toNat := lt_of_le_of_ne hcursor.2 fun he => hne (BitVec.eq_of_toNat_eq he)
  have hadd : (s.cursor + 1#32).toNat = s.cursor.toNat + 1 :=
    BitVec.toNat_add_of_lt (by have := s.n.isLt; simp only [BitVec.toNat_ofNat]; omega)
  refine { h with cursor_range := ?_ }
  change if s.entValid then 1 ≤ (s.cursor + 1#32).toNat ∧ (s.cursor + 1#32).toNat ≤ s.n.toNat else _
  rw [if_pos hvalid, hadd]
  omega

/-- The pixel steps, before the end of the stream, by the lookup's answer. -/
theorem State.withLookup_onOk {P : State → Prop} {s : State} {k : Code → Slot → Key → Byte → State → Flow}
    (hne : s.cursor ≠ s.n)
    (hhit : ∀ code slot c d, s.dictLookup s.ent (s.pixRead s.cursor.toNat).1 = .hit code slot →
      (k code slot (fcodeOf s.ent c) c (s.withDraws d).advance).OnOk P)
    (hmiss : ∀ slot c d, s.dictLookup s.ent (s.pixRead s.cursor.toNat).1 = .miss slot →
      (k 0#12 slot (fcodeOf s.ent c) c (s.withDraws d).advance).OnOk P) :
    (s.withLookup k).OnOk P := by
  obtain ⟨c, d, rfl, heq⟩ := s.withLookup_eq k hne
  rw [heq]
  cases hl : s.dictLookup s.ent (s.pixRead s.cursor.toNat).1 with
  | hit code slot => exact hhit _ _ _ _ hl
  | miss slot => exact hmiss _ _ _ hl
  | endless => exact Flow.onOk_stuck

/-! ### The operations -/

/-- What an operation of a run leaves: a run in its ranges, with START_REQ, ERRCODE, PIX and the schedule as before. -/
structure Continues (s t : State) : Prop where
  run : t.inRun
  ranges : t.RunInv
  startReq_eq : t.startReq = s.startReq
  errCode_eq : t.errCode = s.errCode

theorem State.pixelHit_continues {s : State} (h : s.RunInv) (hst : s.state = stRunning) (hne : s.cursor ≠ s.n) :
    s.pixelHit.OnOk (Continues s) := by
  have hit : ∀ code d, Continues s { (s.withDraws d).advance with ent := code } := fun code d =>
    { run := .inl hst, ranges := { h.advance hne d with }, startReq_eq := rfl, errCode_eq := rfl }
  exact State.withLookup_onOk hne (fun _ _ _ _ _ => Flow.onOk_ok.2 (hit _ _)) fun _ _ _ _ => Flow.onOk_ok.2 (hit _ _)

/-- The emission of a pixel step, from the state in which the pixel has been read. -/
theorem State.RunInv.emitPixel {s : State} (h : s.RunInv) (hne : s.cursor ≠ s.n) (d : Nat) (code : Code) :
    ((s.withDraws d).advance.emit code).OnOk (Emitted (s.withDraws d).advance) :=
  (h.advance hne d).inRanges.emit (fun hf => absurd (hf.symm.trans h.clearFlag_eq) nofun) code

theorem State.pixelMissFull_continues {s : State} (h : s.RunInv) (hne : s.cursor ≠ s.n)
    (hfull : s.freeEnt.toNat = 4096) : s.pixelMissFull.OnOk (Continues s) := by
  have miss : ∀ (c : Byte) d, (((s.withDraws d).advance.emit (s.withDraws d).advance.ent).andThen
      fun u => .ok { u with ent := c.setWidth 12, state := stClearing }).OnOk (Continues s) := fun c d =>
    (h.emitPixel hne d _).andThen fun u hu => Flow.onOk_ok.2
      { run := .inr rfl
        ranges := { hu.ranges with
          clearFlag_eq := hu.clearFlag_eq
          clearing_full := fun _ => (congrArg BitVec.toNat (hu.keeps State.freeEnt fun _ => rfl)).trans hfull }
        startReq_eq := hu.keeps State.startReq fun _ => rfl
        errCode_eq := hu.keeps State.errCode fun _ => rfl }
  exact State.withLookup_onOk hne (fun _ _ c d _ => miss c d) fun _ c d _ => miss c d

/-- An insertion in the EMPTY slot of a miss, after the emission: FREE_ENT and the table grow together (R36, R155). -/
theorem State.RunInv.insert {s : State} (h : s.RunInv) (hst : s.state = stRunning) (hfit : s.freeEnt.toNat ≤ s.maxCode.toNat)
    (hfree : s.freeEnt.toNat < 4096) {i : Nat} (hi : i < Config.hSize) (hk : s.key i = none) (k : Key) (c e : Code) :
    ({ State.dictInsert { s with ent := e } i k c with freeEnt := s.freeEnt + 1#13 } : State).RunInv := by
  have hocc := h.occupied_eq
  have hrange := h.freeEnt_range
  have hadd : (s.freeEnt + 1#13).toNat = s.freeEnt.toNat + 1 := BitVec.toNat_add_of_lt (by simp only [BitVec.toNat_ofNat]; omega)
  have hins : ({ s with ent := e } : State).occupied + 1 = _ := (State.occupied_dictInsert { s with ent := e } k c hi hk).symm
  refine { h with freeEnt_range := ?_, freeEnt_fits := ?_, occupied_eq := ?_, clearing_full := ?_ }
  · change _ ≤ (s.freeEnt + 1#13).toNat ∧ (s.freeEnt + 1#13).toNat ≤ 4096
    rw [hadd]
    exact ⟨Nat.le_succ_of_le hrange.1, hfree⟩
  · change (s.freeEnt + 1#13).toNat ≤ s.maxCode.toNat + 1
    rw [hadd]
    omega
  · refine hins.symm.trans ?_
    change s.occupied + 1 = (s.freeEnt + 1#13).toNat - (s.clear.toNat + 2)
    rw [hadd, hocc]
    omega
  · intro hclearing
    exact absurd (hst.symm.trans hclearing) (by decide)

theorem State.pixelMissInsert_continues {s : State} (h : s.RunInv) (hst : s.state = stRunning) (hne : s.cursor ≠ s.n)
    (hmiss : ∀ code slot, s.dictLookup s.ent (s.pixRead s.cursor.toNat).1 ≠ .hit code slot)
    (hfree : s.freeEnt.toNat ≠ 4096) : s.pixelMissInsert.OnOk (Continues s) := by
  refine State.withLookup_onOk hne (fun code slot _ _ hl => absurd hl (hmiss code slot)) fun slot c d hl =>
    (h.emitPixel hne d _).andThen fun u hu => Flow.onOk_ok.2 ?_
  have answer := s.dictLookup_answers s.ent (s.pixRead s.cursor.toNat).1
  rw [hl] at answer
  obtain ⟨hslot, hempty⟩ := answer
  have state : u.state = stRunning := (hu.keeps State.state fun _ => rfl).trans hst
  have freeEnt : u.freeEnt.toNat ≠ 4096 := by rwa [hu.keeps State.freeEnt fun _ => rfl]
  have key : u.key slot.toNat = none := (hu.keeps (State.key · slot.toNat) fun _ => rfl).trans hempty
  have runInv := hu.ranges.runInv hu.clearFlag_eq fun hc => absurd (state.symm.trans hc) (by decide)
  exact
    { run := .inl state
      ranges := runInv.insert state (hu.width_fits.resolve_right freeEnt) (lt_of_le_of_ne runInv.freeEnt_range.2 freeEnt)
        hslot key _ _ _
      startReq_eq := hu.keeps State.startReq fun _ => rfl
      errCode_eq := hu.keeps State.errCode fun _ => rfl }

/-- CLEAR_BLOCK (R157): with the table emptied FREE_ENT is FIRST_FREE, and the emission brings the width back. -/
theorem State.clearBlock_continues {s : State} (h : s.RunInv) : s.clearBlock.OnOk (Continues s) := by
  obtain ⟨hi2, hi8⟩ := h.init_range
  have hclear := h.clear_eq
  have hn := h.nBits_range
  have hmax := h.maxCode_eq
  have hpow : 2 ^ s.init.toNat ≤ 2 ^ 8 := Nat.pow_le_pow_right (by decide) hi8
  have hfirst := firstFree_toNat (clear := s.clear) (by omega)
  have hfit := firstFree_le_maxCode hi2 hclear
  have hwide : 2 ^ (s.init.toNat + 1) ≤ 2 ^ s.nBits.toNat := Nat.pow_le_pow_right (by decide) hn.1
  have cleared : ({ s.dictClear with freeEnt := firstFree s.clear, clearFlag := true } : State).InRanges :=
    { h with
      clearFlag_eq := rfl
      clearing_full := nofun
      freeEnt_range := by dsimp only; rw [hfirst, State.dictClear_clear]; omega
      freeEnt_fits := by dsimp only; rw [hfirst, State.dictClear_maxCode]; omega
      occupied_eq := by
        dsimp only
        rw [hfirst, State.dictClear_clear, Nat.sub_self]
        exact s.occupied_dictClear }
  unfold State.clearBlock
  refine (cleared.emit (fun _ => hfirst) _).andThen fun u hu => Flow.onOk_ok.2
    { run := .inl rfl
      ranges := { hu.ranges with clearFlag_eq := hu.clearFlag_eq, clearing_full := nofun }
      startReq_eq := hu.keeps State.startReq fun _ => rfl
      errCode_eq := hu.keeps State.errCode fun _ => rfl }

/-! ### START_OK (R153) -/

theorem runInit_toNat {depth : BitVec 8} (h : depth.toNat ≤ 8) : (runInit depth).toNat = max 2 depth.toNat := by
  simp only [runInit, BitVec.toNat_ofNat]
  omega

theorem runClear_toNat {init : BitVec 4} (h : init.toNat ≤ 8) : (runClear init).toNat = 2 ^ init.toNat := by
  have : 2 ^ init.toNat ≤ 2 ^ 8 := Nat.pow_le_pow_right (by decide) h
  simp only [runClear, BitVec.toNat_ofNat]
  exact Nat.mod_eq_of_lt (by omega)

theorem runEofc_toNat {clear : BitVec 9} (h : clear.toNat ≤ 256) : (runEofc clear).toNat = clear.toNat + 1 := by
  simp only [runEofc, BitVec.toNat_ofNat]
  omega

/-- The constants of a run at a legal depth (10_state.md rule R24). -/
structure State.ConstantsOk (s : State) : Prop where
  init_range : 2 ≤ s.init.toNat ∧ s.init.toNat ≤ 8
  clear_eq : s.clear.toNat = 2 ^ s.init.toNat
  eofc_eq : s.eofc.toNat = s.clear.toNat + 1

theorem State.startRun_constantsOk {s : State} (h : s.lDepth.toNat ≤ 8) : s.startRun.ConstantsOk := by
  have hinit := runInit_toNat h
  have hclear := runClear_toNat (init := runInit s.lDepth) (by omega)
  have hpow : 2 ^ (runInit s.lDepth).toNat ≤ 2 ^ 8 := Nat.pow_le_pow_right (by decide) (by omega)
  exact
    { init_range := by rw [State.startRun_init, hinit]; omega
      clear_eq := hclear
      eofc_eq := runEofc_toNat (by omega) }

/-- A run that begins, with any pixel of its first ENT, is in its ranges (R153): CURSOR is 0 in an empty stream (R160), else 1. -/
theorem State.ConstantsOk.freshRun {s : State} (h : s.ConstantsOk) {cursor : Word} {ent : Code} {entValid : Bool} (draws : Nat)
    (hcursor : if entValid then 1 ≤ cursor.toNat ∧ cursor.toNat ≤ s.n.toNat else cursor = 0#32 ∧ s.n = 0#32) :
    ({ s.freshRun with cursor := cursor, ent := ent, entValid := entValid, draws := draws } : State).InRanges := by
  obtain ⟨⟨hi2, hi8⟩, hclear, heofc⟩ := h
  have hpow : 2 ^ s.init.toNat ≤ 2 ^ 8 := Nat.pow_le_pow_right (by decide) hi8
  have hfirst := firstFree_toNat (clear := s.clear) (by omega)
  have hwidth := initWidth_toNat hi8
  have hmax := maxCodeOf_toNat (nBits := initWidth s.init) (by omega)
  have hfit := firstFree_le_maxCode hi2 hclear
  have hnBits : s.init.toNat + 1 ≤ (initWidth s.init).toNat ∧ (initWidth s.init).toNat ≤ 12 := by omega
  have hrange : s.clear.toNat + 2 ≤ (firstFree s.clear).toNat ∧ (firstFree s.clear).toNat ≤ 4096 := by omega
  have hfits : (firstFree s.clear).toNat ≤ (maxCodeOf (initWidth s.init)).toNat + 1 := by rw [hfirst, hmax, hwidth]; omega
  have hocc : s.freshRun.occupied = (firstFree s.clear).toNat - (s.clear.toNat + 2) := by
    rw [hfirst, Nat.sub_self]
    exact State.occupied_dictClear _
  exact ⟨⟨hi2, hi8⟩, hclear, heofc, hnBits, hmax, hrange, hfits, rfl, Nat.zero_le 7, Nat.one_pos, Nat.zero_le 253, hcursor, hocc,
    nofun⟩

theorem State.ConstantsOk.firstPixel {s : State} (h : s.ConstantsOk) : s.freshRun.firstPixel.InRanges := by
  unfold State.firstPixel
  rcases s.freshRun.nextPixel_cases with ⟨heos, hn⟩ | ⟨hne, c, d, _, hn⟩ <;> rw [hn]
  · exact h.freshRun s.draws ⟨rfl, heos.symm⟩
  · have hpos : s.n.toNat ≠ 0 := fun h0 => hne (BitVec.eq_of_toNat_eq h0.symm)
    exact h.freshRun d ⟨le_refl 1, Nat.one_le_iff_ne_zero.2 hpos⟩

theorem State.firstPixel_control (s : State) : (s.firstPixel.clearFlag, s.firstPixel.startReq, s.firstPixel.errCode) =
    (s.clearFlag, s.startReq, s.errCode) := by
  unfold State.firstPixel
  rcases s.nextPixel_cases with ⟨_, hn⟩ | ⟨_, c, d, _, hn⟩
  · rw [hn]
  · rw [hn]; rfl

theorem State.ConstantsOk.of_emits {s t : State} (h : s.ConstantsOk) (he : Emits s t) : t.ConstantsOk := by
  have same : (t.init, t.clear, t.eofc) = (s.init, s.clear, s.eofc) := he.keeps (fun u => (u.init, u.clear, u.eofc)) fun _ => rfl
  simp only [Prod.mk.injEq] at same
  obtain ⟨hi, hc, he⟩ := same
  obtain ⟨h1, h2, h3⟩ := h
  rw [← hi, ← hc, ← he] at *
  exact ⟨h1, h2, h3⟩

/-- START_OK at a legal depth begins a run in its ranges, with no error (R35, R153). -/
theorem State.startOk_begins {s : State} (h : s.lDepth.toNat ≤ 8) :
    s.startOk.OnOk fun t => t.inRun ∧ t.RunInv ∧ t.startReq = false ∧ t.errCode = errNone := by
  unfold State.startOk
  refine (State.sinkWrite_emits _ _).onOk.andThen fun t ht => ?_
  have constants := (State.startRun_constantsOk h).of_emits ht
  have first := t.freshRun.firstPixel_control
  have noFlag : t.freshRun.firstPixel.clearFlag = false := congrArg (·.1) first
  refine (constants.firstPixel.emit (fun hf => absurd (hf.symm.trans noFlag) nofun) _).andThen fun v hv => Flow.onOk_ok.2 ?_
  have control : (v.startReq, v.errCode) = (false, errNone) :=
    (hv.keeps (fun u => (u.startReq, u.errCode)) fun _ => rfl).trans
      ((congrArg (·.2) first).trans (ht.keeps (fun u => (u.startReq, u.errCode)) fun _ => rfl))
  exact ⟨.inl rfl, { hv.ranges with clearFlag_eq := hv.clearFlag_eq, clearing_full := nofun }, congrArg Prod.fst control,
    congrArg Prod.snd control⟩

/-! ### FINISH (R158) -/

/-- FINISH leaves nothing pending (R36, R195). -/
theorem State.finish_empties {s : State} (h : s.RunInv) : s.finish.OnOk fun t =>
    t.state = stDone ∧ t.startReq = s.startReq ∧ t.errCode = s.errCode ∧ t.bits = 0#5 ∧ t.acc = 0#19 ∧ t.aCount = 0#8 := by
  have last : (if s.entValid then s.emit s.ent else .ok s).OnOk fun t => Emits s t ∧ t.InRanges := by
    split
    · exact (h.inRanges.emit (fun hf => absurd (hf.symm.trans h.clearFlag_eq) nofun) _).imp fun t ht => ⟨ht.toEmits, ht.ranges⟩
    · exact Flow.onOk_ok.2 ⟨Emits.refl s, h.inRanges⟩
  unfold State.finish
  refine last.andThen fun t ⟨hst, ht⟩ => ?_
  refine ((t.emit_emits _).onOk.and (t.emit_onOk _ ht.packInv ht.nBits_range.2)).andThen fun u ⟨htu, _, _, hempty⟩ => ?_
  obtain ⟨hbits, hacc, hcount⟩ := hempty (by have := t.eofc.isLt; simp only [BitVec.toNat_setWidth]; omega)
  refine ((u.sinkWrite_emits _).onOk.and (u.sinkWrite_packer _).onOk).andThen fun v ⟨huv, hp, hc⟩ => Flow.onOk_ok.2 ?_
  have hsv := (hst.trans htu).trans huv
  exact ⟨rfl, hsv.keeps State.startReq fun _ => rfl, hsv.keeps State.errCode fun _ => rfl, (bits_of_packer hp).trans hbits,
    (acc_of_packer hp).trans hacc, hc.trans hcount⟩

end Sys2Proof.Machine
end

section
/-! PROOFS. The invariant of the machine through every step (10_state.md rules R21, R22, R35, R36): the dispatch vector gives each of the
engine's operations the state it asks for, and the host's moves touch no register of the run. -/

namespace Sys2Proof.Machine

/-! ### What the dispatch vector says of the state (R99, R100) -/

theorem decodeDispatch_packDispatch : ∀ (cfgOk full hit eos sr : Bool) (state : BitVec 3),
    decodeDispatch (packDispatch cfgOk full hit eos sr state) =
      if 5 ≤ state.toNat ∨ (sr = true ∧ (state = stRunning ∨ state = stClearing)) then .error .unreachableDispatch
      else if sr then .ok (if cfgOk then .startOk else .startInvalid)
      else if state = stRunning then
        .ok (if eos then .finish else if hit then .pixelHit else if full then .pixelMissFull else .pixelMissInsert)
      else if state = stClearing then .ok .clearBlock
      else .error .noStep := by
  decide

/-- The state in which the dispatch vector selects an operation. -/
theorem State.dispatch_cases {s : State} {dv : BitVec 8} {i : Instr} (hv : s.dispatchVector = some dv)
    (hd : decodeDispatch dv = .ok i) :
    (s.startReq = true ∧ s.cfgOk = true ∧ i = .startOk) ∨
    (s.startReq = true ∧ i = .startInvalid) ∨
    (s.state = stRunning ∧ i = .finish) ∨
    (s.state = stRunning ∧ s.eos = false ∧ i = .pixelHit) ∨
    (s.state = stRunning ∧ s.eos = false ∧ s.full = true ∧ i = .pixelMissFull) ∨
    (s.state = stRunning ∧ s.eos = false ∧ s.full = false ∧ s.hit = some false ∧ i = .pixelMissInsert) ∨
    (s.state = stClearing ∧ i = .clearBlock) := by
  obtain ⟨hit, hhit, rfl⟩ := Option.map_eq_some_iff.1 hv
  rw [decodeDispatch_packDispatch] at hd
  split_ifs at hd with hun hsr hcfg hrun heos hh hfull hclear <;> cases hd
  · exact .inl ⟨hsr, hcfg, rfl⟩
  · exact .inr (.inl ⟨hsr, rfl⟩)
  · exact .inr (.inr (.inl ⟨hrun, rfl⟩))
  · exact .inr (.inr (.inr (.inl ⟨hrun, Bool.eq_false_of_not_eq_true heos, rfl⟩)))
  · exact .inr (.inr (.inr (.inr (.inl ⟨hrun, Bool.eq_false_of_not_eq_true heos, hfull, rfl⟩))))
  · refine .inr (.inr (.inr (.inr (.inr (.inl ⟨hrun, ?_, ?_, ?_, rfl⟩)))))
    · exact Bool.eq_false_of_not_eq_true heos
    · exact Bool.eq_false_of_not_eq_true hfull
    · rw [hhit, Bool.eq_false_of_not_eq_true hh]
  · exact .inr (.inr (.inr (.inr (.inr (.inr ⟨hclear, rfl⟩)))))

/-- In a run HIT is the lookup's answer (R99). -/
theorem State.dictLookup_ne_hit {s : State} (hst : s.state = stRunning) (hlt : s.cursor.toNat < s.n.toNat)
    (h : s.hit = some false) (code : Code) (slot : Slot) :
    s.dictLookup s.ent (s.pixRead s.cursor.toNat).1 ≠ .hit code slot := by
  intro hl
  rw [State.hit, if_pos ⟨hst, hlt⟩, hl] at h
  cases h

/-- BAD_DEPTH (R151). -/
theorem State.validate_badDepth (s : State) :
    s.validate.getLsbD 2 = decide (s.lDepth.toNat = 0 ∨ Config.depthMax < s.lDepth.toNat) := by
  have word : s.validate = (BitVec.ofBool (decide (s.lBuflen.toNat < s.lWidth.toNat * s.lHeight.toNat)) ++
    BitVec.ofBool (decide (s.lDepth.toNat = 0 ∨ Config.depthMax < s.lDepth.toNat)) ++
    BitVec.ofBool (decide (s.lHeight.toNat = 0)) ++ BitVec.ofBool (decide (s.lWidth.toNat = 0)) :) := rfl
  rw [word]
  simp (disch := decide) only [getLsbD_append_high, getLsbD_append_low, getLsbD_ofBool_zero]

/-- CFG_OK needs a legal depth (R151). -/
theorem State.lDepth_le_of_cfgOk {s : State} (h : s.cfgOk = true) : s.lDepth.toNat ≤ 8 := by
  have valid : s.validate = 0#4 := eq_of_beq h
  have legal := s.validate_badDepth
  rw [valid] at legal
  by_contra hdepth
  exact of_decide_eq_false legal.symm (.inr (Nat.lt_of_not_le hdepth))

/-- A run before its end has pixels left (R36). -/
theorem State.RunInv.cursor_lt {s : State} (h : s.RunInv) (hne : s.cursor ≠ s.n) : s.cursor.toNat < s.n.toNat := by
  have hcursor := h.cursor_range
  split at hcursor
  · exact lt_of_le_of_ne hcursor.2 fun he => hne (BitVec.eq_of_toNat_eq he)
  · exact absurd (hcursor.1.trans hcursor.2.symm) hne

/-! ### The invariant of the states that an operation can end in -/

/-- The part of the invariant that is the host's: PIX and the schedule. -/
def State.hostSide (s : State) : Memory × List Input := (s.pix, s.inputs)

theorem State.not_inRun {s : State} (h : s.state ≠ stRunning ∧ s.state ≠ stClearing) : ¬ s.inRun :=
  fun hrun => hrun.elim h.1 h.2

/-- With the host's part as before, the invariant is a matter of the engine's registers. -/
theorem State.Inv.ofHostSide {s t : State} (hs : s.Inv) (hh : t.hostSide = s.hostSide) (hst : t.state.toNat ≤ 4)
    (he : t.errCode.toNat ≤ 2) (hq : t.startReq = true → ¬ t.inRun) (hr : t.inRun → t.RunInv)
    (hd : t.state = stDone → t.bits = 0#5 ∧ t.acc = 0#19 ∧ t.aCount = 0#8) : t.Inv := by
  simp only [State.hostSide, Prod.mk.injEq] at hh
  obtain ⟨hpix, hin⟩ := hh
  exact ⟨hst, he, hq, hr, hd, by rw [hpix]; exact hs.pix_wf, by rw [hin]; exact hs.no_calls⟩

/-- Nothing is asked of the registers in ERROR. -/
theorem State.Inv.error {s t : State} (hs : s.Inv) (hh : t.hostSide = s.hostSide) (hst : t.state = stError)
    (he : t.errCode.toNat ≤ 2) : t.Inv := by
  have quiet : ¬ t.inRun := State.not_inRun (by rw [hst]; decide)
  exact hs.ofHostSide hh (by rw [hst]; decide) he (fun _ => quiet) (fun h => absurd h quiet)
    fun h => absurd (hst.symm.trans h) (by decide)

/-- In a run its ranges are asked for. -/
theorem State.Inv.run {s t : State} (hs : s.Inv) (hh : t.hostSide = s.hostSide) (hrun : t.inRun) (hr : t.RunInv)
    (hq : t.startReq = false) (he : t.errCode.toNat ≤ 2) : t.Inv := by
  refine hs.ofHostSide hh ?_ he (fun h => absurd (hq.symm.trans h) nofun) (fun _ => hr) fun hd => ?_
  · rcases hrun with h | h <;> rw [h] <;> decide
  · exact absurd hrun (State.not_inRun (by rw [hd]; decide))

/-- In DONE nothing is pending. -/
theorem State.Inv.done {s t : State} (hs : s.Inv) (hh : t.hostSide = s.hostSide) (hst : t.state = stDone)
    (hempty : t.bits = 0#5 ∧ t.acc = 0#19 ∧ t.aCount = 0#8) (he : t.errCode.toNat ≤ 2) : t.Inv := by
  have quiet : ¬ t.inRun := State.not_inRun (by rw [hst]; decide)
  exact hs.ofHostSide hh (by rw [hst]; decide) he (fun _ => quiet) (fun h => absurd h quiet) fun _ => hempty

/-- A step that does not end leaves the registers, and so the invariant (log 5). -/
theorem State.Inv.enterStuck {s : State} (hs : s.Inv) (u : State) (w : Stuck) : (s.enterStuck u w).Inv :=
  { hs with in_run := fun h => { hs.in_run h with } }

/-- An operation whose actions keep the host's part, and that meets the invariant where they go on to their end, meets it however they
end: SinkFailure leads to ERROR (R244). -/
theorem Flow.settle_inv {r : Flow} {before base : State} (hs : before.Inv) (hr : r.All (Operates base))
    (hb : base.hostSide = before.hostSide) (hok : r.OnOk fun t => t.hostSide = before.hostSide → t.Inv) :
    (r.settle before).Inv := by
  rcases r.settle_cases before with ⟨t, rfl, h⟩ | ⟨t, rfl, h⟩ | ⟨w, t, rfl, h⟩ <;> rw [h]
  · exact Flow.onOk_ok.1 hok ((Operates.keeps (t := t) hr State.hostSide fun _ => rfl).trans hb)
  · exact hs.error ((Operates.keeps (t := t) hr State.hostSide fun _ => rfl).trans hb) rfl (le_refl 2)
  · exact hs.enterStuck t w

/-- The pixel steps and CLEAR_BLOCK continue the run. -/
theorem Flow.settle_inv_of_continues {s : State} {r : Flow} (hs : s.Inv) (hrun : s.inRun) (hr : r.All (Operates s))
    (hok : r.OnOk (Continues s)) : (r.settle s).Inv := by
  have quiet : s.startReq = false := by
    by_contra h
    exact hs.startReq_quiet (Bool.eq_true_of_not_eq_false h) hrun
  exact Flow.settle_inv hs hr rfl (hok.imp fun t ht hh =>
    hs.run hh ht.run ht.ranges (ht.startReq_eq.trans quiet) (by rw [ht.errCode_eq]; exact hs.errCode_legal))

/-- The operation that the dispatch vector selects keeps the invariant. -/
theorem State.Inv.dispatched {s t : State} {dv : BitVec 8} {i : Instr} (hs : s.Inv) (hv : s.dispatchVector = some dv)
    (hd : decodeDispatch dv = .ok i) (h : exec i s = .next t) : t.Inv := by
  have eos : s.eos = false → s.cursor ≠ s.n := fun he hc => by simp [State.eos, hc] at he
  rcases State.dispatch_cases hv hd with ⟨_, hcfg, rfl⟩ | ⟨_, rfl⟩ | ⟨hst, rfl⟩ | ⟨hst, he, rfl⟩ | ⟨hst, he, hfull, rfl⟩ |
    ⟨hst, he, hfull, hhit, rfl⟩ | ⟨hst, rfl⟩
  · cases h
    exact Flow.settle_inv hs s.startOk_operates rfl ((State.startOk_begins (State.lDepth_le_of_cfgOk hcfg)).imp
      fun t ⟨hrun, hr, hq, herr⟩ hh => hs.run hh hrun hr hq (by rw [herr]; decide))
  · cases h
    exact hs.error rfl rfl (by simp)
  · obtain ⟨_, rfl⟩ := State.withRoom_next h
    exact Flow.settle_inv hs s.finish_operates rfl ((State.finish_empties (hs.in_run (.inl hst))).imp
      fun t ⟨hdone, _, herr, hempty⟩ hh => hs.done hh hdone hempty (by rw [herr]; exact hs.errCode_legal))
  · cases h
    exact Flow.settle_inv_of_continues hs (.inl hst) s.pixelHit_operates
      (State.pixelHit_continues (hs.in_run (.inl hst)) hst (eos he))
  · obtain ⟨_, rfl⟩ := State.withRoom_next h
    exact Flow.settle_inv_of_continues hs (.inl hst) s.pixelMissFull_operates
      (State.pixelMissFull_continues (hs.in_run (.inl hst)) (eos he) (by simpa [State.full] using hfull))
  · obtain ⟨_, rfl⟩ := State.withRoom_next h
    have hr := hs.in_run (.inl hst)
    exact Flow.settle_inv_of_continues hs (.inl hst) s.pixelMissInsert_operates
      (State.pixelMissInsert_continues hr hst (eos he) (State.dictLookup_ne_hit hst (hr.cursor_lt (eos he)) hhit)
        (by simpa [State.full] using hfull))
  · obtain ⟨_, rfl⟩ := State.withRoom_next h
    exact Flow.settle_inv_of_continues hs (.inr hst) s.clearBlock_operates (State.clearBlock_continues (hs.in_run (.inr hst)))

/-! ### The moves -/

/-- What the engine's turn leads to, if not to a stop (R150, R159). -/
theorem step_engineTurn {s u t : State} (hf : s.fetch = u.engineTurn) (h : step s = .next t) :
    t = u ∨ t = u.enterStuck u .probe ∨
    ∃ dv i, u.dispatchVector = some dv ∧ decodeDispatch dv = .ok i ∧ exec i u = .next t := by
  unfold step at h
  rw [hf] at h
  rcases u.engineTurn_cases with ⟨w, _, ht⟩ | ⟨_, _, ht⟩ | ⟨_, _, ht⟩ | ⟨dv, i, _, hv, hd, ht⟩ | ⟨dv, _, _, _, ht⟩ |
    ⟨dv, _, _, ht⟩ <;> rw [ht] at h
  · exact .inl (Host.Outcome.next.inj h).symm
  · cases h
  · exact .inr (.inl (Host.Outcome.next.inj h).symm)
  · exact .inr (.inr ⟨dv, i, hv, hd, h⟩)
  · exact .inl (Host.Outcome.next.inj h).symm
  · cases h

theorem State.Inv.engineTurn {s u t : State} (hu : u.Inv) (hf : s.fetch = u.engineTurn) (h : step s = .next t) : t.Inv := by
  rcases step_engineTurn hf h with rfl | rfl | ⟨dv, i, hv, hd, hx⟩
  · exact hu
  · exact hu.enterStuck u .probe
  · exact hu.dispatched hv hd hx

/-- A move taken off the schedule leaves the registers. -/
theorem State.Inv.withInputs {s : State} {m : Input} {rest : List Input} (hs : s.Inv) (h : s.inputs = m :: rest) :
    (s.withInputs rest).Inv :=
  { hs with
    in_run := fun hr => { hs.in_run hr with }
    no_calls := fun i hi => hs.no_calls i (by rw [h]; exact List.mem_cons_of_mem m hi) }

/-- A host transaction (R98): a read shows a register, a write reaches the configuration or, while not BUSY, START_REQ (R22). -/
theorem State.Inv.hostTransaction {s t : State} (hs : s.Inv) {hb : BitVec 37} (h : exec (decodeHost hb) s = .next t) : t.Inv := by
  unfold decodeHost at h
  split at h
  · cases h
    rcases s.csrStore_cases (field hb 32 4) (field hb 0 32) with ⟨_, hbusy, h⟩ | ⟨_, _, _, _, h⟩ <;> rw [h]
    · have quiet : ¬ s.inRun := fun hrun => Bool.false_ne_true (hbusy.symm.trans (s.busy_iff.2 (.inr hrun)))
      exact { hs with startReq_quiet := fun _ => quiet, in_run := fun hr => absurd hr quiet }
    · exact { hs with in_run := fun hr => { hs.in_run hr with } }
  · cases h
    exact { hs with in_run := fun hr => { hs.in_run hr with } }

/-- RESET (R55, R270). -/
theorem State.Inv.reset {s : State} (hs : s.Inv) : s.applyReset.Inv :=
  have quiet : ¬ s.applyReset.inRun := State.not_inRun (by rw [State.applyReset_state]; decide)
  hs.ofHostSide rfl (by simp) (by simp) (fun _ => quiet) (fun h => absurd h quiet) fun _ => ⟨rfl, rfl, rfl⟩

/-- The host's write of PIX keeps its canonical form (R62). -/
theorem State.Inv.hostPixWrite {s : State} (hs : s.Inv) (a : Word) (b : Byte) : (s.hostPixWrite a b).Inv :=
  { hs with
    in_run := fun hr => { hs.in_run hr with }
    pix_wf := Memory.write_wf s.pix a.toNat b a.isLt hs.pix_wf }

/-- The invariant after any step, by the move fetched (R73). -/
theorem State.Inv.step {s t : State} (hs : s.Inv) (h : step s = .next t) : t.Inv := by
  have run : ∀ {i u}, s.fetch = .run i u → exec i u = .next t := fun hf => by rwa [Machine.step, hf] at h
  rcases s.fetch_cases with ⟨_, hf⟩ | ⟨rest, hin, hf⟩ | ⟨hb, rest, hin, hf⟩ | ⟨rest, hin, hf⟩ | ⟨call, rest, hin, _⟩ |
    ⟨a, b, rest, hin, hf⟩
  · exact hs.engineTurn hf h
  · exact (hs.withInputs hin).engineTurn hf h
  · exact (hs.withInputs hin).hostTransaction (run hf)
  · cases run hf
    exact (hs.withInputs hin).reset
  · exact absurd (hs.no_calls (.primitive call) (by simp [hin])) nofun
  · rw [Machine.step, hf] at h
    cases h
    exact (hs.withInputs hin).hostPixWrite a b

end Sys2Proof.Machine

open Sys2Proof Sys2Proof.Machine

/-- Settles O54: the dispatch vector selects each operation in a state from which it keeps the ranges of the run, a failed or unanswered
byte leaves ERROR or the registers before the step, and the host reaches START_REQ only while not BUSY. -/
theorem everyStepKeepsTheInvariant : Obligations.EveryStepKeepsTheInvariant :=
  fun _ _ hs h => hs.step h

/-- Settles O55: after reset the engine is in IDLE, where the three invariants ask only for legal codes. -/
theorem resetMeetsTheInvariants : Obligations.ResetMeetsTheInvariants := by
  have quiet : ¬ State.reset.inRun := State.not_inRun (by decide)
  have notDone : State.reset.state ≠ stDone := by decide
  refine ⟨?_, ?_, ?_⟩
  · exact ⟨by decide, by decide, fun _ => quiet, fun h => absurd h quiet, fun h => absurd h notDone, State.reset_pix_wf, nofun⟩
  · exact ⟨fun _ h => absurd h quiet, fun _ h => absurd h notDone⟩
  · exact ⟨fun h => absurd h quiet, fun h => absurd h quiet, fun h => absurd h quiet⟩
end

section
/-! PROOFS. The host's pixel memory and the bytes of the sink through an operation and through a step (20_memory.md rules R62, R65, R71,
R73 to R75). -/

namespace Sys2Proof.Machine

/-! ### The move that a step takes (R73) -/

theorem step_of_run {s u : State} {i : Instr} (h : s.fetch = .run i u) : step s = exec i u := by rw [step, h]

theorem step_of_move {s u : State} (h : s.fetch = .move u) : step s = .next u := by rw [step, h]

theorem State.fetch_host {s : State} {hb : BitVec 37} {rest : List Input} (h : s.inputs = .host hb :: rest) :
    s.fetch = .run (decodeHost hb) (s.withInputs rest) := by rw [State.fetch, h]

theorem State.fetch_reset {s : State} {rest : List Input} (h : s.inputs = .reset :: rest) :
    s.fetch = .run .reset (s.withInputs rest) := by rw [State.fetch, h]

theorem State.fetch_primitive {s : State} {call : BitVec 56} {rest : List Input} (h : s.inputs = .primitive call :: rest) :
    s.fetch = (s.withInputs rest).callTurn call := by rw [State.fetch, h]

theorem State.fetch_pixWrite {s : State} {a : Word} {b : Byte} {rest : List Input} (h : s.inputs = .pixWrite a b :: rest) :
    s.fetch = .move ((s.withInputs rest).hostPixWrite a b) := by rw [State.fetch, h]

/-- A call by itself (log 2). -/
theorem State.callTurn_cases (s : State) (call : BitVec 56) :
    (∃ w, s.stuck = some w ∧ s.callTurn call = .move s) ∨
    (∃ i, s.stuck = none ∧ decodePrimitive call = .ok i ∧ s.callTurn call = .run i s) ∨
    (∃ why, s.stuck = none ∧ decodePrimitive call = .error why ∧ s.callTurn call = .refuse (.noSuchCall why)) := by
  unfold State.callTurn
  cases s.stuck with
  | some w => exact .inl ⟨w, rfl, rfl⟩
  | none =>
    cases decodePrimitive call with
    | ok i => exact .inr (.inl ⟨i, rfl, rfl, rfl⟩)
    | error why => exact .inr (.inr ⟨why, rfl, rfl, rfl⟩)

theorem State.callTurn_of_decode {s : State} {call : BitVec 56} {i : Instr} (hs : s.stuck = none)
    (hd : decodePrimitive call = .ok i) : s.callTurn call = .run i s := by
  rw [State.callTurn, hs]
  dsimp only
  rw [hd]

/-- From u, in which the move is taken off the schedule, the step has led to t: nothing happened, the probe never ends (log 12), an
operation ran, or the host wrote a byte of PIX. -/
inductive Moves (u : State) : State → Prop where
  | stays : Moves u u
  | endless : Moves u (u.enterStuck u .probe)
  | runs {i : Instr} {t : State} (h : exec i u = .next t) : Moves u t
  | hostWrites (a : Word) (b : Byte) : Moves u (u.hostPixWrite a b)

theorem moves_of_engineTurn {s u t : State} (hf : s.fetch = u.engineTurn) (h : step s = .next t) : Moves u t := by
  rcases step_engineTurn hf h with rfl | rfl | ⟨_, _, _, _, hx⟩
  · exact .stays
  · exact .endless
  · exact .runs hx

theorem moves_of_callTurn {s u t : State} {call : BitVec 56} (hf : s.fetch = u.callTurn call) (h : step s = .next t) :
    Moves u t := by
  rcases u.callTurn_cases call with ⟨_, _, hc⟩ | ⟨i, _, _, hc⟩ | ⟨why, _, _, hc⟩
  · cases (step_of_move (hf.trans hc)).symm.trans h
    exact .stays
  · exact .runs ((step_of_run (hf.trans hc)).symm.trans h)
  · rw [step, hf.trans hc] at h
    cases h

/-- What a step leads to, if not to a stop, by the move fetched (R73). -/
theorem step_moves {s t : State} (h : step s = .next t) : ∃ moves, Moves (s.withInputs moves) t := by
  rcases s.fetch_cases with ⟨_, hf⟩ | ⟨rest, _, hf⟩ | ⟨hb, rest, _, hf⟩ | ⟨rest, _, hf⟩ | ⟨call, rest, _, hf⟩ | ⟨a, b, rest, _, hf⟩
  · exact ⟨s.inputs, moves_of_engineTurn hf h⟩
  · exact ⟨rest, moves_of_engineTurn hf h⟩
  · exact ⟨rest, .runs ((step_of_run hf).symm.trans h)⟩
  · exact ⟨rest, .runs ((step_of_run hf).symm.trans h)⟩
  · exact ⟨rest, moves_of_callTurn hf h⟩
  · cases (step_of_move hf).symm.trans h
    exact ⟨rest, .hostWrites a b⟩

/-! ### PIX (R62, R75) -/

/-- The note of the addresses written during a run (log 10). -/
theorem State.mem_pixDirty_hostPixWrite (s : State) (a : Word) (b : Byte) (a' : Nat) :
    a' ∈ (s.hostPixWrite a b).pixDirty ↔ a' ∈ s.pixDirty ∨ (a' = a.toNat ∧ s.busy = true ∧ a' < s.runLength) := by
  unfold State.hostPixWrite
  dsimp only
  split_ifs with hnote
  · obtain ⟨hbusy, hlt, _⟩ := hnote
    rw [List.mem_cons, or_comm]
    exact or_congr_right ⟨fun he => ⟨he, hbusy, he ▸ hlt⟩, And.left⟩
  · refine ⟨.inl, fun h => h.elim id ?_⟩
    rintro ⟨rfl, hbusy, hlt⟩
    by_contra hnew
    exact hnote ⟨hbusy, hlt, hnew⟩

/-- No operation writes PIX, RESET and START among them. -/
theorem exec_pix {i : Instr} {s t : State} (h : exec i s = .next t) : t.pix = s.pix := by
  rcases i.ofRun_or with hi | rfl | rfl | rfl | ⟨idx, wdata, rfl⟩
  · exact exec_keeps h hi State.pix fun _ => rfl
  · cases h; rfl
  · exact exec_startOk_keeps h State.pix (fun _ => rfl) s.startRun_pix
  · cases h; exact s.applyReset_pix
  · cases h
    rcases s.csrStore_cases idx wdata with ⟨_, _, h⟩ | ⟨_, _, _, _, h⟩ <;> rw [h]

/-! ### The sink's bytes (R65, R71, R74) -/

/-- However an operation ends, the bytes its actions output stay. -/
theorem Flow.settle_sinkOut {r : Flow} {base : State} (hr : r.All (Operates base)) (before : State) :
    base.sinkOut <+: (r.settle before).sinkOut := by
  have grown : ∀ t, Operates base t → base.sinkOut <+: t.sinkOut := fun t ht => by
    obtain ⟨bs, ho, _⟩ := ht.bytes
    exact ⟨bs, ho.symm⟩
  rcases r.settle_cases before with ⟨t, rfl, h⟩ | ⟨t, rfl, h⟩ | ⟨w, t, rfl, h⟩ <;> rw [h] <;> exact grown t hr

/-- RESET keeps the bytes the sink accepted, and at most adds the one it was offered (70_reset_and_hazards.md rule R270, U6). -/
theorem State.applyReset_sinkOut_grows (s : State) : s.sinkOut <+: s.applyReset.sinkOut := by
  unfold State.applyReset
  cases s.stuck with
  | none => exact List.prefix_rfl
  | some w =>
    cases w with
    | probe => exact List.prefix_rfl
    | sink b =>
      dsimp only
      split_ifs
      · exact List.prefix_append _ _
      · exact List.prefix_rfl

theorem exec_sinkOut {i : Instr} {s t : State} (h : exec i s = .next t) : s.sinkOut <+: t.sinkOut := by
  rcases i.ofRun_or with hi | rfl | rfl | rfl | ⟨idx, wdata, rfl⟩
  · obtain ⟨r, hr, rfl⟩ := exec_ofRun h hi
    exact Flow.settle_sinkOut hr s
  · cases h; exact List.prefix_rfl
  · cases h; exact Flow.settle_sinkOut s.startOk_operates s
  · cases h; exact s.applyReset_sinkOut_grows
  · cases h
    rcases s.csrStore_cases idx wdata with ⟨_, _, h⟩ | ⟨_, _, _, _, h⟩ <;> rw [h]

theorem Moves.sinkOut {u t : State} (h : Moves u t) : u.sinkOut <+: t.sinkOut := by
  cases h with
  | stays => exact List.prefix_rfl
  | endless => exact List.prefix_rfl
  | runs hx => exact exec_sinkOut hx
  | hostWrites a b => exact List.prefix_rfl

end Sys2Proof.Machine

open Sys2Proof Sys2Proof.Machine

/-- Settles O5: the move at the head of the schedule is the one fetched. -/
theorem stepRunsTheHostsMove : Obligations.StepRunsTheHostsMove := by
  intro s rest
  refine ⟨fun hb hin => step_of_run (State.fetch_host hin), fun hin => step_of_run (State.fetch_reset hin),
    fun call i hin hs hd => step_of_run ?_⟩
  exact (State.fetch_primitive hin).trans (State.callTurn_of_decode hs hd)

/-- Settles O10: the laws of a write of `Memory`, and the note of the address. -/
theorem hostWriteOfPixIsReadBack : Obligations.HostWriteOfPixIsReadBack := by
  intro s a b rest hin hwf
  refine ⟨(s.withInputs rest).hostPixWrite a b, step_of_move (State.fetch_pixWrite hin), rfl, ?_, ?_, ?_, ?_⟩
  · exact Memory.write_wf s.pix a.toNat b a.isLt hwf
  · exact Memory.read_write_same s.pix a.toNat b hwf
  · exact fun a' hne => Memory.read_write_other s.pix a.toNat a' b hne
  · exact (s.withInputs rest).mem_pixDirty_hostPixWrite a b

/-- Settles O47: PIX is outside the fields that an operation may write. -/
theorem operationsNeverWritePix : Obligations.OperationsNeverWritePix := by
  intro i s t h a
  rw [exec_pix h]

/-- Settles O48: after a step the list of accepted bytes begins with the list before it (`<+:`). -/
theorem acceptedBytesAreNeverTakenBack : Obligations.AcceptedBytesAreNeverTakenBack := by
  intro s t h
  obtain ⟨moves, hm⟩ := step_moves h
  obtain ⟨bs, ho⟩ := hm.sinkOut
  exact ⟨bs, ho.symm⟩
end

section
/-! PROOFS. The encodings (30_encoding.md): the key and the primary slot of a pair (R96, R97), the operation map (R100), and the
engine's turn by the dispatch vector (R101). -/

namespace Sys2Proof.Machine

/-! ### Keys and primary slots (R96, R97, R131, R132) -/

/-- ENT lies below the pixel: no bit of the sum carries (R96). -/
theorem fcodeOf_toNat (ent : Code) (c : Byte) : (fcodeOf ent c).toNat = c.toNat * 2 ^ 12 + ent.toNat := by
  simp only [fcodeOf, Config.keyShift, BitVec.toNat_ofNat, Nat.shiftLeft_eq]
  omega

theorem fcodeOf_eq_append (ent : Code) (c : Byte) : fcodeOf ent c = c ++ ent := by
  apply BitVec.eq_of_toNat_eq
  rw [fcodeOf_toNat, BitVec.toNat_append, ← Nat.shiftLeft_add_eq_or_of_lt ent.isLt, Nat.shiftLeft_eq]

theorem fcodeOf_inj {ent ent' : Code} {c c' : Byte} : fcodeOf ent c = fcodeOf ent' c' ↔ ent = ent' ∧ c = c' := by
  refine ⟨fun h => ?_, fun ⟨he, hc⟩ => by rw [he, hc]⟩
  have keys := congrArg BitVec.toNat h
  rw [fcodeOf_toNat, fcodeOf_toNat] at keys
  exact ⟨BitVec.eq_of_toNat_eq (by omega), BitVec.eq_of_toNat_eq (by omega)⟩

theorem fcodeOf_eq_zero {ent : Code} {c : Byte} : fcodeOf ent c = 0#20 ↔ ent = 0#12 ∧ c = 0#8 :=
  fcodeOf_inj (ent' := 0#12) (c' := 0#8)

/-- The primary slot is an exclusive or of 12 bits, so its bit 12 is 0 (R97). -/
theorem primarySlot_eq_xor (ent : Code) (c : Byte) :
    primarySlot ent c = ((c ++ 0b0000#4 : BitVec 12) ^^^ ent).zeroExtend 13 := by
  apply BitVec.eq_of_toNat_eq
  have pixel : (c ++ 0b0000#4 : BitVec 12).toNat = c.toNat <<< 4 := by
    rw [BitVec.toNat_append, ← Nat.shiftLeft_add_eq_or_of_lt (by decide)]
    rfl
  rw [primarySlot, BitVec.toNat_ofNat, BitVec.toNat_setWidth, BitVec.toNat_xor, pixel]

/-! ### The operation map (R100) -/

/-- The rows that match a dispatch vector that can occur (R100). -/
theorem matchingRows_packDispatch : ∀ (cfgOk full hit eos sr : Bool) (state : BitVec 3), state.toNat ≤ 4 →
    ¬(sr = true ∧ (state = stRunning ∨ state = stClearing)) →
    (dispatchRows.filter (DispatchRow.selects (packDispatch cfgOk full hit eos sr state))).map DispatchRow.op =
      if sr then [if cfgOk then .startOk else .startInvalid]
      else if state = stRunning then
        [if eos then .finish else if hit then .pixelHit else if full then .pixelMissFull else .pixelMissInsert]
      else if state = stClearing then [.clearBlock]
      else [] := by
  decide

/-! ### The engine's turn by the dispatch vector (R101, R150) -/

/-- The fields of a dispatch vector that cannot occur. -/
abbrev State.unreachable (s : State) : Prop :=
  5 ≤ s.state.toNat ∨ (s.startReq = true ∧ (s.state = stRunning ∨ s.state = stClearing))

section
variable {s : State} (hs : s.stuck = none) (he : s.errCode.toNat ≤ 2)
include hs he

theorem State.engineTurn_of_endless (hv : s.dispatchVector = none) : s.engineTurn = .move (s.enterStuck s .probe) := by
  simp [State.engineTurn, hs, he, hv]

variable {dv : BitVec 8} (hv : s.dispatchVector = some dv)
include hv

theorem State.engineTurn_of_ok {i : Instr} (hd : decodeDispatch dv = .ok i) : s.engineTurn = .run i s := by
  simp [State.engineTurn, hs, he, hv, hd]

theorem State.engineTurn_of_noStep (hd : decodeDispatch dv = .error .noStep) : s.engineTurn = .move s := by
  simp [State.engineTurn, hs, he, hv, hd]

theorem State.engineTurn_of_unreachable (hd : decodeDispatch dv = .error .unreachableDispatch) :
    s.engineTurn = .fault .unreachableDispatch := by
  simp [State.engineTurn, hs, he, hv, hd]
end

theorem step_of_fault {s : State} {f : Fault} (h : s.fetch = .fault f) : step s = .fault f := by rw [step, h]

/-- The dispatch vector of a state decodes to no operation where it cannot occur (R101). -/
theorem State.decodeDispatch_of_unreachable {s : State} {dv : BitVec 8} (hv : s.dispatchVector = some dv) (h : s.unreachable) :
    decodeDispatch dv = .error .unreachableDispatch := by
  obtain ⟨hit, _, rfl⟩ := Option.map_eq_some_iff.1 hv
  rw [decodeDispatch_packDispatch, if_pos h]

/-- The dispatch vector of any other state selects an operation, or the engine has no step (R100, R159). -/
theorem State.decodeDispatch_of_reachable {s : State} {dv : BitVec 8} (hv : s.dispatchVector = some dv) (h : ¬ s.unreachable) :
    (∃ i, decodeDispatch dv = .ok i) ∨ decodeDispatch dv = .error .noStep := by
  obtain ⟨hit, _, rfl⟩ := Option.map_eq_some_iff.1 hv
  have hd := decodeDispatch_packDispatch s.cfgOk s.full hit s.eos s.startReq s.state
  rw [if_neg h] at hd
  by_cases hsr : s.startReq = true
  · exact .inl ⟨_, hd.trans (if_pos hsr)⟩
  by_cases hrun : s.state = stRunning
  · exact .inl ⟨_, hd.trans ((if_neg hsr).trans (if_pos hrun))⟩
  rw [if_neg hsr, if_neg hrun] at hd
  by_cases hclear : s.state = stClearing
  · exact .inl ⟨_, hd.trans (if_pos hclear)⟩
  · exact .inr (hd.trans (if_neg hclear))

theorem State.Inv.not_unreachable {s : State} (hs : s.Inv) : ¬ s.unreachable := by
  rintro (h | ⟨hq, hrun⟩)
  · have := hs.state_legal
    omega
  · exact hs.startReq_quiet hq hrun

/-! ### Good states never stop -/

/-- An operation that may call BYTE_OUT answers a next state where A_COUNT leaves it room (log 13). -/
theorem State.withRoom_of_le {s : State} (h : s.aCount.toNat ≤ 253) (r : Flow) : s.withRoom r = .next (r.settle s) :=
  if_pos (Nat.lt_succ_of_le h)

/-- The operation that the dispatch vector selects answers a next state: where it may call BYTE_OUT a run is going on, and the block
has room (R33). -/
theorem State.Inv.dispatched_next {s : State} {dv : BitVec 8} {i : Instr} (hs : s.Inv) (hv : s.dispatchVector = some dv)
    (hd : decodeDispatch dv = .ok i) : ∃ t, exec i s = .next t := by
  have room : s.inRun → ∀ r : Flow, ∃ t, s.withRoom r = .next t := fun hrun r =>
    ⟨_, State.withRoom_of_le (hs.in_run hrun).aCount_range r⟩
  rcases State.dispatch_cases hv hd with ⟨_, _, rfl⟩ | ⟨_, rfl⟩ | ⟨hst, rfl⟩ | ⟨_, _, rfl⟩ | ⟨hst, _, _, rfl⟩ |
    ⟨hst, _, _, _, rfl⟩ | ⟨hst, rfl⟩
  · exact ⟨_, rfl⟩
  · exact ⟨_, rfl⟩
  · exact room (.inl hst) s.finish
  · exact ⟨_, rfl⟩
  · exact room (.inl hst) s.pixelMissFull
  · exact room (.inl hst) s.pixelMissInsert
  · exact room (.inr hst) s.clearBlock

/-- The engine's turn is no stop in a state that meets the invariant (R101, U8). -/
theorem State.Inv.engineTurn_next {s u : State} (hu : u.Inv) (hf : s.fetch = u.engineTurn) : ∃ t, Machine.step s = .next t := by
  cases hs : u.stuck with
  | some w => exact ⟨u, step_of_move (hf.trans (by rw [State.engineTurn, hs]))⟩
  | none =>
    cases hv : u.dispatchVector with
    | none => exact ⟨_, step_of_move (hf.trans (State.engineTurn_of_endless hs hu.errCode_legal hv))⟩
    | some dv =>
      rcases State.decodeDispatch_of_reachable hv hu.not_unreachable with ⟨i, hd⟩ | hd
      · obtain ⟨t, ht⟩ := hu.dispatched_next hv hd
        exact ⟨t, (step_of_run (hf.trans (State.engineTurn_of_ok hs hu.errCode_legal hv hd))).trans ht⟩
      · exact ⟨u, step_of_move (hf.trans (State.engineTurn_of_noStep hs hu.errCode_legal hv hd))⟩

theorem exec_decodeHost_next (hb : BitVec 37) (s : State) : ∃ t, exec (decodeHost hb) s = .next t := by
  unfold decodeHost
  split
  · exact ⟨_, rfl⟩
  · exact ⟨_, rfl⟩

end Sys2Proof.Machine

open Sys2Proof Sys2Proof.Machine

/-- Settles O40: the key and the slot returned are those of `fcodeOf` and `primarySlot`. -/
theorem dictHashGivesKeyAndPrimarySlot : Obligations.DictHashGivesKeyAndPrimarySlot := fun _ ent c =>
  ⟨fcodeOf ent c, primarySlot ent c, rfl, fcodeOf_eq_append ent c, fcodeOf_toNat ent c, fcodeOf_eq_zero, nofun,
    primarySlot_eq_xor ent c, primarySlot_lt ent c⟩

/-- Settles O41: the pixel and ENT are the digits of the key in base 2 ^ 12. -/
theorem compositeKeyIsOneToOne : Obligations.CompositeKeyIsOneToOne := fun ent _ c _ =>
  ⟨fcodeOf_eq_append ent c, fcodeOf_toNat ent c, fcodeOf_inj.1, fcodeOf_eq_zero, nofun⟩

/-- Settles O7: the vector of such a state decodes to no operation, by its STATE and SR alone, and the engine's turn is the fault. -/
theorem unreachableDispatchVectorFaults : Obligations.UnreachableDispatchVectorFaults := by
  intro s t hturn hs he hhit hun
  obtain ⟨hit, hhit⟩ := Option.ne_none_iff_exists'.1 hhit
  have hv : t.dispatchVector = some (packDispatch t.cfgOk t.full hit t.eos t.startReq t.state) := by
    rw [State.dispatchVector, hhit, Option.map_some]
  have turn : s.fetch = t.engineTurn := by
    rcases hturn with ⟨hin, rfl⟩ | ⟨rest, hin, rfl⟩ <;> rw [State.fetch, hin]
  exact step_of_fault (turn.trans (State.engineTurn_of_unreachable hs he hv (State.decodeDispatch_of_unreachable hv hun)))

/-- Settles O56: the engine's turn selects an operation with room in the block or changes nothing, the host's moves never stop, and the
schedule of a good state holds no call. -/
theorem goodStatesNeverStop : Obligations.GoodStatesNeverStop := by
  intro s hs
  rcases s.fetch_cases with ⟨_, hf⟩ | ⟨rest, hin, hf⟩ | ⟨hb, rest, _, hf⟩ | ⟨rest, _, hf⟩ | ⟨call, rest, hin, _⟩ |
    ⟨a, b, rest, _, hf⟩
  · exact hs.engineTurn_next hf
  · exact (hs.withInputs hin).engineTurn_next hf
  · obtain ⟨t, ht⟩ := exec_decodeHost_next hb (s.withInputs rest)
    exact ⟨t, (step_of_run hf).trans ht⟩
  · exact ⟨_, step_of_run hf⟩
  · exact absurd (hs.no_calls (.primitive call) (by simp [hin])) nofun
  · exact ⟨_, step_of_move hf⟩

/-- Settles O2: each vector is matched by the row of its condition alone, and decoded by it. -/
theorem everyPossibleDispatchVectorSelectsItsRow : Obligations.EveryPossibleDispatchVectorSelectsItsRow := by
  refine ⟨?_, fun _ => rfl, rfl⟩
  intro cfgOk full hit eos sr state dv matching hst hsr
  have rows := matchingRows_packDispatch cfgOk full hit eos sr state hst hsr
  refine ⟨rows, ?_⟩
  rw [decodeDispatch_packDispatch, if_neg (not_or.2 ⟨by omega, hsr⟩), show matching = _ from rows]
  split_ifs <;> rfl
end

section
/-! PROOFS. The form of the output (30_encoding.md rules R93, R214): what the Block Writer outputs is whole sub-blocks, and an operation
of a run adds whole sub-blocks to the run's bytes. -/

namespace Sys2Proof.Machine

/-! ### Sub-blocks (R93) -/

theorem SubBlocks.append {bs cs : List Byte} (hb : SubBlocks bs) (hc : SubBlocks cs) : SubBlocks (bs ++ cs) := by
  induction hb with
  | nil => exact hc
  | cons data rest h1 h2 _ ih =>
    rw [List.append_assoc]
    exact .cons data (rest ++ cs) h1 h2 ih

theorem SubBlocks.single {data : List Byte} (h1 : 1 ≤ data.length) (h2 : data.length ≤ 254) :
    SubBlocks (BitVec.ofNat 8 data.length :: data) := by
  simpa using SubBlocks.cons data [] h1 h2 .nil

/-! ### The bytes output (R34, R216) -/

/-- From s to t the sink has accepted the bytes bs, and they are counted. -/
structure Outputs (bs : List Byte) (s t : State) : Prop where
  sinkOut_eq : t.sinkOut = s.sinkOut ++ bs
  outCount_eq : t.outCount = s.outCount + BitVec.ofNat 32 bs.length

theorem Outputs.none {s t : State} (ho : t.sinkOut = s.sinkOut) (hc : t.outCount = s.outCount) : Outputs [] s t :=
  ⟨by simp [ho], by simp [hc]⟩

theorem Outputs.trans {bs cs : List Byte} {s t u : State} (h1 : Outputs bs s t) (h2 : Outputs cs t u) : Outputs (bs ++ cs) s u := by
  refine ⟨by rw [h2.sinkOut_eq, h1.sinkOut_eq, List.append_assoc], ?_⟩
  rw [h2.outCount_eq, h1.outCount_eq, List.length_append, BitVec.ofNat_add, BitVec.add_assoc]

theorem State.sinkWrite_outputs (s : State) (b : Byte) : (s.sinkWrite b).OnOk (Outputs [b] s) := by
  have taken : Outputs [] s s.takeAnswer.2 := by
    unfold State.takeAnswer
    split <;> exact .none rfl rfl
  unfold State.sinkWrite
  split <;> rename_i t heq <;> rw [heq] at taken
  · exact Flow.onOk_ok.2 (taken.trans (cs := [b]) ⟨rfl, rfl⟩)
  · exact Flow.onOk_raised
  · exact Flow.onOk_stuck

theorem State.sinkWriteAll_outputs (s : State) (bs : List Byte) : (s.sinkWriteAll bs).OnOk (Outputs bs s) := by
  induction bs generalizing s with
  | nil => exact Flow.onOk_ok.2 (.none rfl rfl)
  | cons b rest ih => exact (s.sinkWrite_outputs b).andThen fun t ht => (ih t).imp fun _ hu => ht.trans hu

/-! ### The Block Writer and the Bit Packer output whole sub-blocks -/

/-- The bytes output and those that wait in the block. -/
def State.written (s : State) : Nat := s.sinkOut.length + s.aCount.toNat

/-- From s to t the output has grown by whole sub-blocks, and at least k more bytes have been output or wait in the block. -/
structure Blocks (k : Nat) (s t : State) : Prop where
  bytes : ∃ bs, SubBlocks bs ∧ Outputs bs s t
  written_le : s.written + k ≤ t.written

theorem Blocks.trans {j k : Nat} {s t u : State} (h1 : Blocks j s t) (h2 : Blocks k t u) : Blocks (j + k) s u := by
  obtain ⟨⟨bs, hb, ho⟩, hw⟩ := h1
  obtain ⟨⟨cs, hc, ho'⟩, hw'⟩ := h2
  exact ⟨⟨bs ++ cs, hb.append hc, ho.trans ho'⟩, by omega⟩

theorem Blocks.mono {j k : Nat} {s t : State} (h : Blocks k s t) (hj : j ≤ k) : Blocks j s t :=
  ⟨h.bytes, (Nat.add_le_add_left hj _).trans h.written_le⟩

/-- A change that outputs nothing and leaves the block. -/
theorem Blocks.of_eq {s t : State} (h : (t.sinkOut, t.outCount, t.aCount) = (s.sinkOut, s.outCount, s.aCount)) : Blocks 0 s t := by
  simp only [Prod.mk.injEq] at h
  obtain ⟨ho, hc, ha⟩ := h
  exact ⟨⟨[], .nil, .none ho hc⟩, by rw [State.written, State.written, ho, ha]; exact le_refl _⟩

/-- BLOCK_FLUSH (R211) outputs one sub-block, or nothing. -/
theorem State.blockFlush_blocks (s : State) (h : s.aCount.toNat ≤ 254) : s.blockFlush.OnOk (Blocks 0 s) := by
  unfold State.blockFlush
  split
  case isTrue hpos =>
    have block : SubBlocks (s.aCount :: s.pendingBytes) := by
      have single := SubBlocks.single (data := s.pendingBytes) (by rwa [State.pendingBytes_length])
        (by rwa [State.pendingBytes_length])
      rwa [State.pendingBytes_length, BitVec.ofNat_toNat, BitVec.setWidth_eq] at single
    refine (s.sinkWriteAll_outputs _).andThen fun t ht => Flow.onOk_ok.2 ⟨⟨_, block, ht.sinkOut_eq, ht.outCount_eq⟩, ?_⟩
    change s.sinkOut.length + s.aCount.toNat ≤ t.sinkOut.length + 0
    rw [ht.sinkOut_eq, List.length_append, List.length_cons, State.pendingBytes_length]
    omega
  case isFalse => exact Flow.onOk_ok.2 (.of_eq rfl)

/-- BYTE_OUT (R210): the byte waits in the block or has been output with it. -/
theorem State.byteOut_blocks (s : State) (b : Byte) (h : s.aCount.toNat ≤ 253) : (s.byteOut b).OnOk (Blocks 1 s) := by
  have count : (s.pushByte b).aCount.toNat = s.aCount.toNat + 1 :=
    BitVec.toNat_add_of_lt (by simp only [BitVec.toNat_ofNat]; omega)
  have pushed : Blocks 1 s (s.pushByte b) :=
    ⟨⟨[], .nil, .none rfl rfl⟩, by rw [State.written, State.written, count, State.pushByte_sinkOut]; omega⟩
  unfold State.byteOut
  split
  · exact (State.blockFlush_blocks _ (by omega)).imp fun _ ht => pushed.trans ht
  · exact Flow.onOk_ok.2 pushed

theorem State.drain_blocks (k : Nat) (s : State) (h : s.aCount.toNat ≤ 253) : (s.drain k).OnOk (Blocks k s) := by
  induction k generalizing s with
  | zero => exact Flow.onOk_ok.2 (.of_eq rfl)
  | succ k ih =>
    refine ((s.byteOut_blocks _ h).and (s.byteOut_onOk _ h)).andThen fun t ⟨ht, _, hroom⟩ =>
      (ih t.dropByte hroom).imp fun u hu => ?_
    exact ((ht.trans (Blocks.of_eq (t := t.dropByte) rfl)).trans hu).mono (by omega)

theorem State.updateWidth_blocks (s : State) : Blocks 0 s s.updateWidth := by
  unfold State.updateWidth
  split_ifs <;> exact .of_eq rfl

/-- The flush at EOFC (R195): the partial byte, if there is one, and the block. -/
theorem State.eofFlush_blocks (s : State) (h : s.aCount.toNat ≤ 253) : s.eofFlush.OnOk (Blocks (min 1 s.bits.toNat) s) := by
  have partialByte : (if 0 < s.bits.toNat then s.byteOut (s.acc.setWidth 8) else .ok s).OnOk
      fun t => Blocks (min 1 s.bits.toNat) s t ∧ t.aCount.toNat ≤ 253 := by
    split
    · exact ((s.byteOut_blocks _ h).and (s.byteOut_onOk _ h)).imp fun t ⟨ht, _, hroom⟩ =>
        ⟨ht.mono (Nat.min_le_left _ _), hroom⟩
    · exact Flow.onOk_ok.2 ⟨(Blocks.of_eq rfl).mono (by omega), h⟩
  unfold State.eofFlush
  refine partialByte.andThen fun t ⟨ht, hroom⟩ =>
    (t.clearAcc.blockFlush_blocks (by rw [State.clearAcc_aCount]; omega)).imp fun u hu => ?_
  exact (ht.trans (Blocks.of_eq (t := t.clearAcc) rfl)).trans hu

/-- Steps 1 and 2 of EMIT (R190): the complete bytes have left, and fewer than 8 bits are held. -/
theorem State.appendCode_drain_onOk (s : State) (code : Code) (hp : s.PackInv) (hn : s.nBits.toNat ≤ 12) :
    ((s.appendCode code).drain ((s.appendCode code).bits.toNat / 8)).OnOk fun t =>
      Blocks ((s.bits.toNat + s.nBits.toNat) / 8) s t ∧ t.bits.toNat = (s.bits.toNat + s.nBits.toNat) % 8 ∧
        t.aCount.toNat ≤ 253 ∧ t.eofc = s.eofc := by
  have packed : s.packed := ⟨hp.bits_range, hp.acc_range, hn⟩
  have drained := State.drain_onOk ((s.appendCode code).bits.toNat / 8) (s.appendCode code) (by omega)
    (by rw [s.appendCode_bits_toNat code packed, s.appendCode_acc_toNat code packed]; exact s.packedValue_lt code packed)
    hp.aCount_range
  have output := State.drain_blocks ((s.appendCode code).bits.toNat / 8) (s.appendCode code) hp.aCount_range
  refine ((drained.and output).and (State.drain_emits _ _).onOk).imp fun t ⟨⟨⟨_, hbits, _, hroom⟩, hout⟩, ht⟩ => ?_
  have appended : Blocks 0 s (s.appendCode code) := .of_eq rfl
  rw [s.appendCode_bits_toNat code packed] at hbits hout
  exact ⟨(appended.trans hout).mono (by omega), by omega, hroom, ht.keeps State.eofc fun _ => rfl⟩

/-- EMIT (R190): at EOFC the code's bits have left the packer, so that there is at least one byte (R93). -/
theorem State.emit_blocks (s : State) (code : Code) (hp : s.PackInv) (hn : s.nBits.toNat ≤ 12) :
    (s.emit code).OnOk (Blocks (if code.toNat = s.eofc.toNat then min 1 s.nBits.toNat else 0) s) := by
  unfold State.emit
  refine (s.appendCode_drain_onOk code hp hn).andThen fun u ⟨hout, hbits, hroom, heofc⟩ => ?_
  have widened := hout.trans u.updateWidth_blocks
  have pack := u.updateWidth_pack
  simp only [Prod.mk.injEq] at pack
  obtain ⟨bits, _, aCount⟩ := pack
  have eofc : u.updateWidth.eofc = s.eofc := (u.updateWidth_emits.keeps State.eofc fun _ => rfl).trans heofc
  dsimp only
  rw [eofc]
  split
  · exact (State.eofFlush_blocks _ (by rw [aCount]; exact hroom)).imp fun t ht => (widened.trans ht).mono (by rw [bits]; omega)
  · exact Flow.onOk_ok.2 (widened.mono (Nat.zero_le _))

/-! ### The output of a run -/

/-- The sink holds, of the run, INIT and whole sub-blocks, and OUTCOUNT counts them (R93). -/
def State.RunOutput (s : State) : Prop :=
  ∃ before body, s.sinkOut = before ++ s.init.setWidth 8 :: body ∧ SubBlocks body ∧ s.outCount = BitVec.ofNat 32 (body.length + 1)

theorem State.RunOutput.extend {s t : State} {bs : List Byte} (hs : s.RunOutput) (hi : t.init = s.init) (hb : SubBlocks bs)
    (ho : Outputs bs s t) : t.RunOutput := by
  obtain ⟨before, body, hsink, hbody, hcount⟩ := hs
  refine ⟨before, body ++ bs, by rw [ho.sinkOut_eq, hsink, hi]; simp, hbody.append hb, ?_⟩
  rw [ho.outCount_eq, hcount, ← BitVec.ofNat_add, List.length_append, Nat.add_right_comm]

/-- The terminator after at least one sub-block (R93, R213). -/
theorem State.RunOutput.finish {s t u : State} {bs : List Byte} (hs : s.RunOutput) (hi : u.init = s.init) (hb : SubBlocks bs)
    (hne : bs ≠ []) (ho : Outputs bs s t) (hend : Outputs [0x00#8] t u) :
    ∃ before body, u.sinkOut = before ++ u.init.setWidth 8 :: body ++ [0x00#8] ∧ SubBlocks body ∧ body ≠ [] ∧
      u.outCount = BitVec.ofNat 32 (body.length + 2) := by
  obtain ⟨before, body, hsink, hbody, hcount⟩ := hs
  refine ⟨before, body ++ bs, by rw [hend.sinkOut_eq, ho.sinkOut_eq, hsink, hi]; simp, hbody.append hb, by simp [hne], ?_⟩
  rw [hend.outCount_eq, ho.outCount_eq, hcount, ← BitVec.ofNat_add, ← BitVec.ofNat_add, List.length_append, List.length_singleton]
  congr 1
  omega

/-! ### The operations -/

/-- The beginning of a pixel step outputs nothing (R120, R133). -/
theorem State.withLookup_blocks {s : State} {k : Code → Slot → Key → Byte → State → Flow} (hne : s.cursor ≠ s.n)
    (hk : ∀ code slot key c d, (k code slot key c (s.withDraws d).advance).OnOk (Blocks 0 (s.withDraws d).advance)) :
    (s.withLookup k).OnOk (Blocks 0 s) := by
  have begun : ∀ d, Blocks 0 s (s.withDraws d).advance := fun _ => .of_eq rfl
  exact State.withLookup_onOk hne (fun code slot c d _ => (hk code slot _ c d).imp fun _ => (begun d).trans)
    fun slot c d _ => (hk 0#12 slot _ c d).imp fun _ => (begun d).trans

theorem State.pixelHit_blocks {s : State} (hne : s.cursor ≠ s.n) : s.pixelHit.OnOk (Blocks 0 s) :=
  State.withLookup_blocks hne fun _ _ _ _ _ => Flow.onOk_ok.2 (.of_eq rfl)

theorem State.RunInv.emit_blocks {s : State} (h : s.RunInv) (code : Code) : (s.emit code).OnOk (Blocks 0 s) :=
  (s.emit_blocks code h.inRanges.packInv h.nBits_range.2).imp fun _ ht => ht.mono (Nat.zero_le _)

theorem State.pixelMissInsert_blocks {s : State} (h : s.RunInv) (hne : s.cursor ≠ s.n) : s.pixelMissInsert.OnOk (Blocks 0 s) :=
  State.withLookup_blocks hne fun _ _ _ _ d => ((h.advance hne d).emit_blocks _).andThen fun _ hu =>
    Flow.onOk_ok.2 (hu.trans (k := 0) (.of_eq rfl))

theorem State.pixelMissFull_blocks {s : State} (h : s.RunInv) (hne : s.cursor ≠ s.n) : s.pixelMissFull.OnOk (Blocks 0 s) :=
  State.withLookup_blocks hne fun _ _ _ _ d => ((h.advance hne d).emit_blocks _).andThen fun _ hu =>
    Flow.onOk_ok.2 (hu.trans (k := 0) (.of_eq rfl))

theorem State.clearBlock_blocks {s : State} (h : s.RunInv) : s.clearBlock.OnOk (Blocks 0 s) := by
  have cleared : Blocks 0 s { s.dictClear with freeEnt := firstFree s.clear, clearFlag := true } := .of_eq rfl
  have emitted := State.emit_blocks { s.dictClear with freeEnt := firstFree s.clear, clearFlag := true } (s.clear.setWidth 12)
    ⟨h.bits_range, h.acc_range, h.aCount_range⟩ h.nBits_range.2
  exact emitted.andThen fun u hu => Flow.onOk_ok.2
    (((cleared.trans hu).mono (Nat.zero_le _)).trans (k := 0) (.of_eq rfl))

/-- FINISH (R158): at EOFC the block is flushed, and the code's bits are in it. -/
theorem State.finish_outputs {s : State} (h : s.RunInv) : s.finish.OnOk fun u =>
    ∃ bs t, SubBlocks bs ∧ bs ≠ [] ∧ Outputs bs s t ∧ Outputs [0x00#8] t u := by
  have last : (if s.entValid then s.emit s.ent else .ok s).OnOk fun t => Blocks 0 s t ∧ t.InRanges := by
    split
    · exact ((h.emit_blocks _).and (h.inRanges.emit (fun hf => absurd (hf.symm.trans h.clearFlag_eq) nofun) _)).imp
        fun t ⟨hb, ht⟩ => ⟨hb, ht.ranges⟩
    · exact Flow.onOk_ok.2 ⟨.of_eq rfl, h.inRanges⟩
  unfold State.finish
  refine last.andThen fun t ⟨hst, ht⟩ => ?_
  have eofc : (t.eofc.setWidth 12).toNat = t.eofc.toNat := by
    have := t.eofc.isLt
    simp only [BitVec.toNat_setWidth]
    omega
  have hn : t.init.toNat + 1 ≤ t.nBits.toNat ∧ t.nBits.toNat ≤ 12 := ht.nBits_range
  refine ((t.emit_blocks _ ht.packInv hn.2).and (t.emit_onOk _ ht.packInv hn.2)).andThen fun u ⟨htu, _, _, hempty⟩ => ?_
  obtain ⟨_, _, hcount⟩ := hempty eofc
  obtain ⟨⟨bs, hb, ho⟩, hw⟩ := hst.trans htu
  have hne : bs ≠ [] := by
    rintro rfl
    rw [State.written, State.written, ho.sinkOut_eq, List.append_nil, hcount, if_pos eofc, BitVec.toNat_ofNat] at hw
    omega
  exact (u.sinkWrite_outputs _).andThen fun v hv => Flow.onOk_ok.2 ⟨bs, u, hb, hne, ho, hv.sinkOut_eq, hv.outCount_eq⟩

theorem State.firstPixel_output (s : State) : (s.firstPixel.init, s.firstPixel.sinkOut, s.firstPixel.outCount) =
    (s.init, s.sinkOut, s.outCount) := by
  unfold State.firstPixel
  rcases s.nextPixel_cases with ⟨_, hn⟩ | ⟨_, c, d, _, hn⟩
  · rw [hn]
  · rw [hn]; rfl

/-- START_OK (R153): the header byte, and the sub-blocks that the emission of CLEAR may have completed. -/
theorem State.startOk_outputs {s : State} (h : s.lDepth.toNat ≤ 8) : s.startOk.OnOk State.RunOutput := by
  unfold State.startOk
  refine ((s.startRun.sinkWrite_outputs _).and (State.sinkWrite_emits _ _).onOk).andThen fun t ⟨hout, ht⟩ => ?_
  have ranges := ((State.startRun_constantsOk h).of_emits ht).firstPixel
  have begun : t.freshRun.firstPixel.RunOutput := by
    have first := t.freshRun.firstPixel_output
    simp only [Prod.mk.injEq] at first
    obtain ⟨hi, ho, hc⟩ := first
    have init : t.init = s.startRun.init := ht.keeps State.init fun _ => rfl
    refine ⟨s.sinkOut, [], ?_, .nil, ?_⟩
    · rw [ho, hi]
      exact hout.sinkOut_eq.trans (by rw [← init]; rfl)
    · rw [hc]
      exact hout.outCount_eq
  have emitted := State.emit_blocks _ (t.freshRun.firstPixel.clear.setWidth 12) ranges.packInv ranges.nBits_range.2
  refine (emitted.and (State.emit_emits _ _).onOk).andThen fun v ⟨hv, he⟩ => ?_
  obtain ⟨bs, hb, ho⟩ := hv.bytes
  exact Flow.onOk_ok.2 (begun.extend (he.keeps State.init fun _ => rfl) hb ⟨ho.sinkOut_eq, ho.outCount_eq⟩)

/-! ### The form of the output through an operation and through a step -/

/-- What the form of the output speaks of. -/
def State.outputView (s : State) : Option Stuck × BitVec 3 × BitVec 4 × List Byte × Word :=
  (s.stuck, s.state, s.init, s.sinkOut, s.outCount)

theorem State.OutputInv.of_view {s t : State} (hs : s.OutputInv) (h : t.outputView = s.outputView) : t.OutputInv := by
  simp only [State.outputView, Prod.mk.injEq] at h
  obtain ⟨hstuck, hstate, hinit, hsink, hcount⟩ := h
  refine ⟨fun hn hrun => ?_, fun hn hd => ?_⟩
  · rw [hinit, hsink, hcount]
    exact hs.running (hstuck ▸ hn) (by rwa [State.inRun, hstate] at hrun)
  · rw [hinit, hsink, hcount]
    exact hs.done (hstuck ▸ hn) (hstate ▸ hd)

/-- Outside a run and DONE nothing is asked of the output. -/
theorem State.OutputInv.of_idle_or_error {s : State} (h : s.state = stIdle ∨ s.state = stError) : s.OutputInv where
  running _ hrun := absurd hrun (State.not_inRun (by rcases h with h | h <;> rw [h] <;> decide))
  done _ hd := absurd hd (by rcases h with h | h <;> rw [h] <;> decide)

theorem State.OutputInv.of_stuck {s : State} {w : Stuck} (h : s.stuck = some w) : s.OutputInv where
  running hn _ := absurd (h.symm.trans hn) nofun
  done hn _ := absurd (h.symm.trans hn) nofun

theorem State.RunOutput.outputInv {s : State} (h : s.RunOutput) (hrun : s.inRun) : s.OutputInv where
  running _ _ := h
  done _ hd := absurd hrun (State.not_inRun (by rw [hd]; decide))

/-- However an operation ends, the output has its form if it has it where the actions go on to their end. -/
theorem Flow.settle_outputInv {r : Flow} (before : State) (hok : r.OnOk State.OutputInv) : (r.settle before).OutputInv := by
  rcases r.settle_cases before with ⟨t, rfl, h⟩ | ⟨t, rfl, h⟩ | ⟨w, t, rfl, h⟩ <;> rw [h]
  · exact Flow.onOk_ok.1 hok
  · exact .of_idle_or_error (.inr rfl)
  · exact .of_stuck rfl

/-- The pixel steps and CLEAR_BLOCK add whole sub-blocks to the run's output. -/
theorem Flow.settle_outputInv_of_blocks {s : State} {r : Flow} (hs : s.RunOutput) (hr : r.All (Operates s))
    (hc : r.OnOk (Continues s)) (hb : r.OnOk (Blocks 0 s)) : (r.settle s).OutputInv :=
  Flow.settle_outputInv s (((hr.onOk.and hc).and hb).imp fun t ⟨⟨hop, hcont⟩, hblocks⟩ => by
    obtain ⟨bs, hbs, ho⟩ := hblocks.bytes
    exact (hs.extend (hop.keeps State.init fun _ => rfl) hbs ho).outputInv hcont.run)

/-- The operation that the dispatch vector selects keeps the form of the output. -/
theorem State.OutputInv.dispatched {s t : State} {dv : BitVec 8} {i : Instr} (ho : s.OutputInv) (hs : s.Inv)
    (hstuck : s.stuck = none) (hv : s.dispatchVector = some dv) (hd : decodeDispatch dv = .ok i) (h : exec i s = .next t) :
    t.OutputInv := by
  have eos : s.eos = false → s.cursor ≠ s.n := fun he hc => by simp [State.eos, hc] at he
  rcases State.dispatch_cases hv hd with ⟨_, hcfg, rfl⟩ | ⟨_, rfl⟩ | ⟨hst, rfl⟩ | ⟨hst, he, rfl⟩ | ⟨hst, he, hfull, rfl⟩ |
    ⟨hst, he, hfull, hhit, rfl⟩ | ⟨hst, rfl⟩
  · cases h
    have hdepth := State.lDepth_le_of_cfgOk hcfg
    exact Flow.settle_outputInv s (((State.startOk_outputs hdepth).and (State.startOk_begins hdepth)).imp
      fun t ⟨hout, hrun, _⟩ => hout.outputInv hrun)
  · cases h
    exact .of_idle_or_error (.inr rfl)
  · obtain ⟨_, rfl⟩ := State.withRoom_next h
    have hr := hs.in_run (.inl hst)
    refine Flow.settle_outputInv s (((s.finish_operates.onOk.and (State.finish_outputs hr)).and (State.finish_empties hr)).imp
      fun u ⟨⟨hop, bs, t, hbs, hne, hout, hend⟩, hdone, _⟩ => ?_)
    exact
      { running := fun _ hrun => absurd hrun (State.not_inRun (by rw [hdone]; decide))
        done := fun _ _ =>
          State.RunOutput.finish (ho.running hstuck (.inl hst)) (hop.keeps State.init fun _ => rfl) hbs hne hout hend }
  · cases h
    exact Flow.settle_outputInv_of_blocks (ho.running hstuck (.inl hst)) s.pixelHit_operates
      (State.pixelHit_continues (hs.in_run (.inl hst)) hst (eos he)) (State.pixelHit_blocks (eos he))
  · obtain ⟨_, rfl⟩ := State.withRoom_next h
    have hr := hs.in_run (.inl hst)
    exact Flow.settle_outputInv_of_blocks (ho.running hstuck (.inl hst)) s.pixelMissFull_operates
      (State.pixelMissFull_continues hr (eos he) (by simpa [State.full] using hfull)) (State.pixelMissFull_blocks hr (eos he))
  · obtain ⟨_, rfl⟩ := State.withRoom_next h
    have hr := hs.in_run (.inl hst)
    exact Flow.settle_outputInv_of_blocks (ho.running hstuck (.inl hst)) s.pixelMissInsert_operates
      (State.pixelMissInsert_continues hr hst (eos he) (State.dictLookup_ne_hit hst (hr.cursor_lt (eos he)) hhit)
        (by simpa [State.full] using hfull)) (State.pixelMissInsert_blocks hr (eos he))
  · obtain ⟨_, rfl⟩ := State.withRoom_next h
    have hr := hs.in_run (.inr hst)
    exact Flow.settle_outputInv_of_blocks (ho.running hstuck (.inr hst)) s.clearBlock_operates (State.clearBlock_continues hr)
      (State.clearBlock_blocks hr)

theorem State.OutputInv.engineTurn {s u t : State} (ho : u.OutputInv) (hu : u.Inv) (hf : s.fetch = u.engineTurn)
    (h : step s = .next t) : t.OutputInv := by
  cases hs : u.stuck with
  | some w =>
    cases (step_of_move (hf.trans (by rw [State.engineTurn, hs]))).symm.trans h
    exact ho
  | none =>
    rcases step_engineTurn hf h with rfl | rfl | ⟨dv, i, hv, hd, hx⟩
    · exact ho
    · exact .of_stuck rfl
    · exact ho.dispatched hu hs hv hd hx

/-- A host transaction writes nothing that the form of the output speaks of. -/
theorem State.OutputInv.hostTransaction {s t : State} (hs : s.OutputInv) {hb : BitVec 37} (h : exec (decodeHost hb) s = .next t) :
    t.OutputInv := by
  unfold decodeHost at h
  split at h <;> cases h
  · rcases s.csrStore_cases (field hb 32 4) (field hb 0 32) with ⟨_, _, h⟩ | ⟨_, _, _, _, h⟩ <;> rw [h] <;> exact hs.of_view rfl
  · exact hs.of_view rfl

/-- The form of the output after any step, by the move fetched (R73). -/
theorem State.OutputInv.step {s t : State} (ho : s.OutputInv) (hs : s.Inv) (h : step s = .next t) : t.OutputInv := by
  have taken : ∀ rest, (s.withInputs rest).OutputInv := fun _ => ho.of_view rfl
  rcases s.fetch_cases with ⟨_, hf⟩ | ⟨rest, hin, hf⟩ | ⟨hb, rest, _, hf⟩ | ⟨rest, _, hf⟩ | ⟨call, rest, hin, _⟩ |
    ⟨a, b, rest, _, hf⟩
  · exact ho.engineTurn hs hf h
  · exact (taken rest).engineTurn (hs.withInputs hin) hf h
  · exact (taken rest).hostTransaction ((step_of_run hf).symm.trans h)
  · cases (step_of_run hf).symm.trans h
    exact .of_idle_or_error (.inl rfl)
  · exact absurd (hs.no_calls (.primitive call) (by simp [hin])) nofun
  · cases (step_of_move hf).symm.trans h
    exact (taken rest).of_view rfl

end Sys2Proof.Machine

open Sys2Proof Sys2Proof.Machine

/-- Settles O57: each operation of a run outputs whole sub-blocks, FINISH at least one before the terminator, and START_OK begins with
INIT; a step that fails or does not end leaves ERROR or an open step. -/
theorem everyStepKeepsTheOutputForm : Obligations.EveryStepKeepsTheOutputForm :=
  fun _ _ hs ho h => ho.step hs h
end

section
/-! PROOFS. The Pixel Source (41_pixel_source.md rule R120): one equation per case of a read of PIX and of NEXT_PIXEL. -/

namespace Sys2Proof.Machine

/-- A byte the host did not write during the run is the one stored, and nothing is drawn (20_memory.md rule R71). -/
theorem State.pixRead_of_not_dirty {s : State} {a : Nat} (h : a ∉ s.pixDirty) : s.pixRead a = (s.pix.read a, s) := if_neg h

/-- A byte the host wrote during the run is the next free value, which is used up (20_memory.md rule R75). -/
theorem State.pixRead_of_dirty {s : State} {a : Nat} (h : a ∈ s.pixDirty) :
    s.pixRead a = (Config.drawPixel s.draws, s.withDraws (s.draws + 1)) := if_pos h

theorem exec_nextPixel_of_end {s : State} (h : s.cursor = s.n) :
    exec .nextPixel s = .next { s with result := .pixel true 0#8 } := by
  have hn : s.nextPixel = (true, 0#8, s) := if_pos h
  change execNextPixel s = _
  rw [execNextPixel, hn]

theorem exec_nextPixel_of_read {s t : State} {c : Byte} (h : s.cursor ≠ s.n) (hr : s.pixRead s.cursor.toNat = (c, t)) :
    exec .nextPixel s = .next { t.advance with result := .pixel false c } := by
  have hn : s.nextPixel = (false, c, t.advance) := by rw [State.nextPixel, if_neg h, hr]
  change execNextPixel s = _
  rw [execNextPixel, hn]

end Sys2Proof.Machine

open Sys2Proof Sys2Proof.Machine

/-- Settles O38: before the end of the stream the byte is the one that a read of PIX gives, stored or drawn. -/
theorem nextPixelReadsInOrder : Obligations.NextPixelReadsInOrder := fun s =>
  ⟨exec_nextPixel_of_end,
    fun hne hclean => exec_nextPixel_of_read hne (State.pixRead_of_not_dirty hclean),
    fun hne hdirty => ⟨Config.drawPixel s.draws, exec_nextPixel_of_read hne (State.pixRead_of_dirty hdirty)⟩⟩
end

section
/-! PROOFS. The lookup of the Code Dictionary (42_dictionary.md): which slots a probe visits (R134), and a lookup's answer by the first slot
of the probe that ends it (R133). -/

namespace Sys2Proof.Machine

/-! ### The probe (R134) -/

/-- The k-th slot of the probe from the primary slot i0. -/
def probeIndex (i0 k : Nat) : Nat := (probeNext (displacement i0))^[k] i0

/-- The step back by the displacement is a step on by what it lacks to 5003. -/
theorem probeNext_eq_mod {disp i : Nat} (hd : 1 ≤ disp ∧ disp < 5003) (hi : i < 5003) :
    probeNext disp i = (i + (5003 - disp)) % 5003 := by
  unfold probeNext
  simp only [Config.hSize]
  split_ifs <;> omega

theorem probeIndex_eq_mod {i0 : Nat} (h : i0 < 5003) (k : Nat) :
    probeIndex i0 k = (i0 + (5003 - displacement i0) * k) % 5003 := by
  induction k with
  | zero => exact (Nat.mod_eq_of_lt h).symm
  | succ k ih =>
    rw [probeIndex, Function.iterate_succ_apply', ← probeIndex, ih,
      probeNext_eq_mod (displacement_range h) (Nat.mod_lt _ (by decide)), Nat.mod_add_mod, Nat.mul_succ, Nat.add_assoc]

theorem probeIndex_lt {i0 : Nat} (h : i0 < 5003) (k : Nat) : probeIndex i0 k < 5003 := by
  rw [probeIndex_eq_mod h]
  exact Nat.mod_lt _ (by decide)

/-- The k-th index as the rule gives it. -/
theorem probeIndex_eq {i0 : Nat} (h : i0 < 5003) (k : Nat) :
    probeIndex i0 k = if i0 = 0 then (5003 - k % 5003) % 5003 else ((k + 1) * i0) % 5003 := by
  rw [probeIndex_eq_mod h, displacement]
  split_ifs with h0
  · omega
  · rw [show 5003 - (Config.hSize - i0) = i0 from Nat.sub_sub_self h.le, Nat.add_comm, ← Nat.mul_succ, Nat.mul_comm]

/-- 5003 is prime, so a step of 1 to 5002 comes to every slot. -/
theorem exists_probeIndex_eq {i0 j : Nat} (h : i0 < 5003) (hj : j < 5003) : ∃ k < 5003, probeIndex i0 k = j := by
  obtain ⟨hd1, hd2⟩ : 1 ≤ displacement i0 ∧ displacement i0 < 5003 := displacement_range h
  have coprime : Nat.Coprime (5003 - displacement i0) 5003 :=
    (Nat.coprime_of_lt_prime (by omega) (by omega) (by norm_num)).symm
  obtain ⟨k, hk, hmod⟩ := Nat.exists_mul_mod_eq_of_coprime (j + (5003 - i0)) coprime (by decide)
  refine ⟨k, hk, ?_⟩
  rw [probeIndex_eq_mod h, ← Nat.add_mod_mod, hmod, Nat.add_mod_mod, show i0 + (j + (5003 - i0)) = j + 5003 by omega,
    Nat.add_mod_right, Nat.mod_eq_of_lt hj]

/-! ### The first slot that ends a lookup (R133) -/

/-- Slot j ends a lookup of the key: it is EMPTY or holds the key. -/
abbrev State.EndsAt (s : State) (fcode : Key) (j : Nat) : Prop := s.key j = none ∨ s.key j = some fcode

/-- The answer of a lookup that ends at slot j. -/
def State.answerAt (s : State) (fcode : Key) (j : Nat) : Probe :=
  if s.key j = some fcode then .hit (s.codeAt j) (BitVec.ofNat 13 j) else .miss (BitVec.ofNat 13 j)

/-- The k-th slot of the probe from i0 is the first that ends the lookup, among the 5004 at which `State.dictLookup` looks. -/
structure State.FirstEnd (s : State) (fcode : Key) (i0 k : Nat) : Prop where
  bound : k ≤ 5003
  ends : s.EndsAt fcode (probeIndex i0 k)
  passed : ∀ m < k, ¬ s.EndsAt fcode (probeIndex i0 m)

/-- The lookup from slot i on: the first of the slots listed that ends it gives the answer. -/
def State.searchFrom (s : State) (fcode : Key) (disp n i : Nat) : Probe :=
  ((List.iterate (probeNext disp) i n).find? fun j => decide (s.EndsAt fcode j)).elim .endless (s.answerAt fcode)

theorem State.searchFrom_succ (s : State) (fcode : Key) (disp n i : Nat) :
    s.searchFrom fcode disp (n + 1) i =
      if s.key i = some fcode then .hit (s.codeAt i) (BitVec.ofNat 13 i)
      else if s.key i = none then .miss (BitVec.ofNat 13 i)
      else s.searchFrom fcode disp n (probeNext disp i) := by
  unfold State.searchFrom
  rw [List.iterate, List.find?_cons]
  split_ifs with hkey hnone
  · simp [State.EndsAt, State.answerAt, hkey]
  · simp [State.EndsAt, State.answerAt, hnone]
  · simp [State.EndsAt, hkey, hnone]

theorem State.probe_eq_searchFrom (s : State) (fcode : Key) (disp n i : Nat) :
    s.probe fcode disp n i = s.searchFrom fcode disp n (probeNext disp i) := by
  induction n generalizing i with
  | zero => rfl
  | succ n ih => rw [State.searchFrom_succ, ← ih, State.probe]

theorem State.dictLookup_eq_searchFrom (s : State) (ent : Code) (c : Byte) :
    s.dictLookup ent c =
      s.searchFrom (fcodeOf ent c) (displacement (primarySlot ent c).toNat) (Config.hSize + 1) (primarySlot ent c).toNat := by
  rw [State.searchFrom_succ, ← State.probe_eq_searchFrom, BitVec.ofNat_toNat, BitVec.setWidth_eq]
  rfl

/-- The slot that the search finds is the first of the probe that ends the lookup. -/
theorem State.find_iterate_eq_some_iff (s : State) (fcode : Key) (i0 j : Nat) :
    (List.iterate (probeNext (displacement i0)) i0 (Config.hSize + 1)).find? (fun j => decide (s.EndsAt fcode j)) = some j ↔
      ∃ k, s.FirstEnd fcode i0 k ∧ probeIndex i0 k = j := by
  rw [List.find?_eq_some_iff_getElem]
  simp only [List.getElem_iterate, List.length_iterate, decide_eq_true_eq, Bool.not_eq_true', decide_eq_false_iff_not]
  constructor
  · rintro ⟨hend, k, hk, rfl, hpass⟩
    exact ⟨k, ⟨Nat.le_of_lt_succ hk, hend, hpass⟩, rfl⟩
  · rintro ⟨k, hk, rfl⟩
    exact ⟨hk.ends, k, Nat.lt_succ_of_le hk.bound, rfl, hk.passed⟩

theorem State.dictLookup_of_firstEnd {s : State} {ent : Code} {c : Byte} {k : Nat}
    (h : s.FirstEnd (fcodeOf ent c) (primarySlot ent c).toNat k) :
    s.dictLookup ent c = s.answerAt (fcodeOf ent c) (probeIndex (primarySlot ent c).toNat k) := by
  rw [s.dictLookup_eq_searchFrom, State.searchFrom, (s.find_iterate_eq_some_iff _ _ _).2 ⟨k, h, rfl⟩, Option.elim_some]

/-- Either no slot of the probe ends the lookup, or one is the first that does. -/
theorem State.dictLookup_cases (s : State) (ent : Code) (c : Byte) :
    (s.dictLookup ent c = .endless ∧ ∀ k ≤ 5003, ¬ s.EndsAt (fcodeOf ent c) (probeIndex (primarySlot ent c).toNat k)) ∨
    ∃ k, s.FirstEnd (fcodeOf ent c) (primarySlot ent c).toNat k := by
  cases hf : (List.iterate (probeNext (displacement (primarySlot ent c).toNat)) (primarySlot ent c).toNat
      (Config.hSize + 1)).find? fun j => decide (s.EndsAt (fcodeOf ent c) j) with
  | some j =>
    obtain ⟨k, hk, _⟩ := (s.find_iterate_eq_some_iff _ _ j).1 hf
    exact .inr ⟨k, hk⟩
  | none =>
    refine .inl ⟨by rw [s.dictLookup_eq_searchFrom, State.searchFrom, hf, Option.elim_none], fun k hk hend => ?_⟩
    have passed := List.find?_eq_none.1 hf (probeIndex (primarySlot ent c).toNat k)
      (List.mem_iterate.2 ⟨k, Nat.lt_succ_of_le hk, rfl⟩)
    exact passed (decide_eq_true hend)

theorem primarySlot_lt_hSize (ent : Code) (c : Byte) : (primarySlot ent c).toNat < 5003 :=
  (primarySlot_lt ent c).trans (by decide)

/-- A hit: the first slot of the probe that ends the lookup holds the key. -/
theorem State.dictLookup_eq_hit_iff {s : State} {ent : Code} {c : Byte} {code : Code} {slot : Slot} :
    s.dictLookup ent c = .hit code slot ↔
      ∃ k, s.FirstEnd (fcodeOf ent c) (primarySlot ent c).toNat k ∧ probeIndex (primarySlot ent c).toNat k = slot.toNat ∧
        s.key slot.toNat = some (fcodeOf ent c) ∧ s.codeAt slot.toNat = code := by
  constructor
  · intro h
    rcases s.dictLookup_cases ent c with ⟨hend, _⟩ | ⟨k, hk⟩
    · rw [hend] at h
      cases h
    · rw [State.dictLookup_of_firstEnd hk, State.answerAt] at h
      split_ifs at h with hkey
      cases h
      rw [slot_toNat (probeIndex_lt (primarySlot_lt_hSize ent c) k)]
      exact ⟨k, hk, rfl, hkey, rfl⟩
  · rintro ⟨k, hk, hslot, hkey, rfl⟩
    rw [State.dictLookup_of_firstEnd hk, hslot, State.answerAt, if_pos hkey, BitVec.ofNat_toNat, BitVec.setWidth_eq]

/-- A miss: that slot is EMPTY. -/
theorem State.dictLookup_eq_miss_iff {s : State} {ent : Code} {c : Byte} {slot : Slot} :
    s.dictLookup ent c = .miss slot ↔
      ∃ k, s.FirstEnd (fcodeOf ent c) (primarySlot ent c).toNat k ∧ probeIndex (primarySlot ent c).toNat k = slot.toNat ∧
        s.key slot.toNat = none := by
  constructor
  · intro h
    rcases s.dictLookup_cases ent c with ⟨hend, _⟩ | ⟨k, hk⟩
    · rw [hend] at h
      cases h
    · rw [State.dictLookup_of_firstEnd hk, State.answerAt] at h
      split_ifs at h with hkey
      cases h
      rw [slot_toNat (probeIndex_lt (primarySlot_lt_hSize ent c) k)]
      exact ⟨k, hk, rfl, hk.ends.resolve_right hkey⟩
  · rintro ⟨k, hk, hslot, hnone⟩
    rw [State.dictLookup_of_firstEnd hk, hslot, State.answerAt, if_neg (by rw [hnone]; nofun), BitVec.ofNat_toNat,
      BitVec.setWidth_eq]

/-- With an EMPTY slot the lookup ends, since its probe comes to that slot. -/
theorem State.dictLookup_ne_endless {s : State} {j : Nat} (hj : j < 5003) (h : s.key j = none) (ent : Code) (c : Byte) :
    s.dictLookup ent c ≠ .endless := by
  intro hend
  rcases s.dictLookup_cases ent c with ⟨_, hpass⟩ | ⟨k, hk⟩
  · obtain ⟨k, hk, rfl⟩ := exists_probeIndex_eq (primarySlot_lt_hSize ent c) hj
    exact hpass k hk.le (.inl h)
  · rw [State.dictLookup_of_firstEnd hk, State.answerAt] at hend
    split_ifs at hend

/-- A table with fewer than 5003 keys has an EMPTY slot. -/
theorem State.exists_key_none {s : State} (h : s.occupied < 5003) : ∃ j < 5003, s.key j = none := by
  by_contra hfull
  push Not at hfull
  refine h.ne (?_ : s.ht.toList.countP Option.isSome = 5003)
  rw [List.countP_eq_length.2 ?_, Vector.length_toList]
  intro x hx
  obtain ⟨j, hj, rfl⟩ := List.getElem_of_mem hx
  rw [Vector.length_toList] at hj
  rw [Option.isSome_iff_ne_none, Vector.getElem_toList]
  simpa only [State.key, hj, dite_true] using hfull j hj

/-- A lookup that its primary slot ends looks no further. -/
theorem State.FirstEnd.eq_primarySlot {s : State} {fcode : Key} {k : Nat} {primary slot : Slot}
    (h : s.FirstEnd fcode primary.toNat k) (hslot : probeIndex primary.toNat k = slot.toNat)
    (hend : s.EndsAt fcode primary.toNat) : slot = primary := by
  obtain rfl : k = 0 := by
    by_contra hk
    exact h.passed 0 (Nat.pos_of_ne_zero hk) hend
  exact (BitVec.eq_of_toNat_eq hslot).symm

theorem exec_dictLookup_of_hit {s : State} {ent : Code} {c : Byte} {code : Code} {slot : Slot}
    (h : s.dictLookup ent c = .hit code slot) :
    exec (.dictLookup ent c) s = .next { s with result := .lookup true code slot (fcodeOf ent c) } := by
  change execDictLookup ent c s = _
  rw [execDictLookup, h]

theorem exec_dictLookup_of_miss {s : State} {ent : Code} {c : Byte} {slot : Slot} (h : s.dictLookup ent c = .miss slot) :
    exec (.dictLookup ent c) s = .next { s with result := .lookup false 0#12 slot (fcodeOf ent c) } := by
  change execDictLookup ent c s = _
  rw [execDictLookup, h]

end Sys2Proof.Machine

open Sys2Proof Sys2Proof.Machine

/-- Settles O43: modulo 5003 a probe goes on by a fixed step other than 0, and 5003 is prime. -/
theorem probeVisitsEverySlot : Obligations.ProbeVisitsEverySlot := by
  refine ⟨fun i0 k h => probeIndex_eq h k, fun i0 j h hj => exists_probeIndex_eq h hj, fun s ent c h => ?_⟩
  obtain ⟨j, hj, hnone⟩ := State.exists_key_none h
  exact State.dictLookup_ne_endless hj hnone ent c

/-- Settles O42: the lookup ends at the first slot of its probe that is EMPTY or holds the key, which is the primary slot if that is one. -/
theorem dictLookupAnswersTruly : Obligations.DictLookupAnswersTruly := by
  rintro s ent c ⟨i, hi, hempty⟩
  have inTable : ∀ {k} {slot : Slot}, probeIndex (primarySlot ent c).toNat k = slot.toNat → slot.toNat < 5003 := fun hslot =>
    hslot ▸ probeIndex_lt (primarySlot_lt_hSize ent c) _
  cases hl : s.dictLookup ent c with
  | endless => exact absurd hl (State.dictLookup_ne_endless hi hempty ent c)
  | hit code slot =>
    obtain ⟨k, hk, hslot, hkey, hcode⟩ := State.dictLookup_eq_hit_iff.1 hl
    refine ⟨true, code, slot, exec_dictLookup_of_hit hl, inTable hslot, fun _ => ⟨hkey, hcode.symm⟩, nofun,
      ⟨k, hslot, fun m hm => not_or.1 (hk.passed m hm)⟩, fun h => ⟨rfl, hk.eq_primarySlot hslot (.inr h)⟩, fun h => ?_⟩
    rw [hk.eq_primarySlot hslot (.inl h), h] at hkey
    cases hkey
  | miss slot =>
    obtain ⟨k, hk, hslot, hnone⟩ := State.dictLookup_eq_miss_iff.1 hl
    refine ⟨false, 0#12, slot, exec_dictLookup_of_miss hl, inTable hslot, nofun, fun _ => ⟨hnone, rfl⟩,
      ⟨k, hslot, fun m hm => not_or.1 (hk.passed m hm)⟩, fun h => ?_, fun h => ⟨rfl, hk.eq_primarySlot hslot (.inl h)⟩⟩
    rw [hk.eq_primarySlot hslot (.inr h), h] at hnone
    cases hnone
end

section
/-! PROOFS. The operations of the dictionary that write (42_dictionary.md rules R130, R136), and what an insertion in the slot of a miss
does to the lookups (R133, R135). -/

namespace Sys2Proof.Machine

theorem exec_dictInsert_of_lt {s : State} {slot : Slot} (fcode : Key) (code : Code) (h : slot.toNat < 5003) :
    exec (.dictInsert slot fcode code) s = .next (s.dictInsert slot.toNat fcode code) := if_pos h

theorem exec_dictInsert_of_le {s : State} {slot : Slot} (fcode : Key) (code : Code) (h : 5003 ≤ slot.toNat) :
    exec (.dictInsert slot fcode code) s = .fault .noSuchSlot := if_neg (Nat.not_lt.2 h)

section
variable {s : State} {i : Nat} (hi : i < 5003) (hempty : s.key i = none) (fcode : Key) (code : Code)
include hi hempty

/-- A lookup passes no EMPTY slot, so an insertion in one leaves every slot that it passed. -/
theorem State.not_endsAt_dictInsert {key : Key} {j : Nat} (h : ¬ s.EndsAt key j) : ¬ (s.dictInsert i fcode code).EndsAt key j := by
  have hne : i ≠ j := by
    rintro rfl
    exact h (.inl hempty)
  rwa [State.EndsAt, s.key_dictInsert i j fcode code hi, if_neg hne]

/-- After an insertion in an EMPTY slot a lookup hits where it ended before, if the key is there now. -/
theorem State.FirstEnd.dictInsert_hit {ent : Code} {c : Byte} {k : Nat} {slot : Slot}
    (h : s.FirstEnd (fcodeOf ent c) (primarySlot ent c).toNat k) (hslot : probeIndex (primarySlot ent c).toNat k = slot.toNat)
    (hkey : (s.dictInsert i fcode code).key slot.toNat = some (fcodeOf ent c)) :
    (s.dictInsert i fcode code).dictLookup ent c = .hit ((s.dictInsert i fcode code).codeAt slot.toNat) slot :=
  State.dictLookup_eq_hit_iff.2 ⟨k,
    { bound := h.bound
      ends := .inr (hslot ▸ hkey)
      passed := fun m hm => State.not_endsAt_dictInsert hi hempty fcode code (h.passed m hm) },
    hslot, hkey, rfl⟩

theorem State.dictLookup_dictInsert_of_hit {ent : Code} {c : Byte} {code' : Code} {slot : Slot}
    (h : s.dictLookup ent c = .hit code' slot) : (s.dictInsert i fcode code).dictLookup ent c = .hit code' slot := by
  obtain ⟨k, hk, hslot, hkey, rfl⟩ := State.dictLookup_eq_hit_iff.1 h
  have hne : i ≠ slot.toNat := by
    rintro rfl
    rw [hempty] at hkey
    cases hkey
  have kept := hk.dictInsert_hit hi hempty fcode code hslot (by rw [State.key_dictInsert _ _ _ _ _ hi, if_neg hne, hkey])
  rwa [State.codeAt_dictInsert _ _ _ _ _ hi, if_neg hne] at kept

end

theorem State.dictLookup_dictInsert_of_miss {s : State} {ent : Code} {c : Byte} {slot : Slot} (h : s.dictLookup ent c = .miss slot)
    (code : Code) : (s.dictInsert slot.toNat (fcodeOf ent c) code).dictLookup ent c = .hit code slot := by
  obtain ⟨k, hk, hslot, hempty⟩ := State.dictLookup_eq_miss_iff.1 h
  have hi : slot.toNat < 5003 := hslot ▸ probeIndex_lt (primarySlot_lt_hSize ent c) k
  have found := hk.dictInsert_hit hi hempty (fcodeOf ent c) code hslot (by rw [State.key_dictInsert _ _ _ _ _ hi, if_pos rfl])
  rwa [State.codeAt_dictInsert _ _ _ _ _ hi, if_pos rfl] at found

/-- The slot of a miss is an EMPTY one of the table. -/
theorem State.dictLookup_miss_slot {s : State} {ent : Code} {c : Byte} {slot : Slot} (h : s.dictLookup ent c = .miss slot) :
    slot.toNat < 5003 ∧ s.key slot.toNat = none := by
  have answer := s.dictLookup_answers ent c
  rwa [h] at answer

/-- A pair that a lookup finds is stored. -/
theorem State.dictLookup_hit_key {s : State} {ent : Code} {c : Byte} {code : Code} {slot : Slot}
    (h : s.dictLookup ent c = .hit code slot) : s.key slot.toNat = some (fcodeOf ent c) := by
  obtain ⟨_, _, _, hkey, _⟩ := State.dictLookup_eq_hit_iff.1 h
  exact hkey

end Sys2Proof.Machine

open Sys2Proof Sys2Proof.Machine

/-- Settles O39: the laws of `State.dictClear`. -/
theorem dictClearEmptiesEverySlot : Obligations.DictClearEmptiesEverySlot := fun s =>
  ⟨s.dictClear, rfl, s.key_dictClear, s.codeAt_dictClear, rfl⟩

/-- Settles O44: the laws of `State.dictInsert`, at a slot that the table has. -/
theorem dictInsertWritesOneSlot : Obligations.DictInsertWritesOneSlot := by
  intro s slot fcode code
  refine ⟨fun h => ⟨s.dictInsert slot.toNat fcode code, exec_dictInsert_of_lt fcode code h, fun i => ?_, fun i => ?_, rfl⟩,
    exec_dictInsert_of_le fcode code⟩
  · simp only [s.key_dictInsert slot.toNat i fcode code h, eq_comm]
  · simp only [s.codeAt_dictInsert slot.toNat i fcode code h, eq_comm]

/-- Settles O45: the insertion leaves the slots that the lookup passed, and fills the one where it ended. -/
theorem lookupFindsWhatWasInserted : Obligations.LookupFindsWhatWasInserted := by
  intro s t ent c slot code hmiss hins
  rw [exec_dictInsert_next hins]
  exact State.dictLookup_dictInsert_of_miss hmiss code

/-- Settles O46: no slot of a lookup that hit is EMPTY, and a pair found is a pair stored. -/
theorem insertionDisturbsNoOtherLookup : Obligations.InsertionDisturbsNoOtherLookup := by
  intro s t ent ent' c c' slot code hmiss hins hother
  obtain ⟨hslot, hempty⟩ := State.dictLookup_miss_slot hmiss
  rw [exec_dictInsert_next hins]
  refine ⟨fun code' slot' => State.dictLookup_dictInsert_of_hit hslot hempty _ code, fun _ _ hstored code' slot'' hfound => ?_⟩
  have hkey := State.dictLookup_hit_key hfound
  rw [s.key_dictInsert _ _ _ _ hslot] at hkey
  split_ifs at hkey
  · obtain ⟨hent, hc⟩ := fcodeOf_inj.1 (Option.some.inj hkey)
    exact hother ⟨hent.symm, hc.symm⟩
  · exact hstored _ hkey
end

section
/-! PROOFS. The soundness of the dictionary (42_dictionary.md rules R135 to R137) through every step: a run begins and a clear ends with an
empty table, PIXEL_MISS_INSERT stores one pair in the slot of its miss under FREE_ENT, and nothing else writes the table. -/

namespace Sys2Proof.Machine

/-- What the soundness of the dictionary speaks of, besides STATE. -/
def State.dictView (s : State) : BitVec 9 × BitVec 13 × Vector (Option Key) Config.hSize × Vector Code Config.hSize :=
  (s.clear, s.freeEnt, s.ht, s.ct)

theorem State.DictInv.of_dictView {s t : State} (hs : s.DictInv) (hrun : t.inRun → s.inRun) (h : t.dictView = s.dictView) :
    t.DictInv := by
  simp only [State.dictView, Prod.mk.injEq] at h
  obtain ⟨hclear, hfree, hht, hct⟩ := h
  have key : ∀ i, t.key i = s.key i := fun i => by simp only [State.key, hht]
  have codeAt : ∀ i, t.codeAt i = s.codeAt i := fun i => by simp only [State.codeAt, hct]
  refine ⟨fun hr => ?_, fun hr => ?_, fun hr => ?_⟩
  · simpa only [key, codeAt, s.dictLookup_congr t _ _ hht hct] using hs.reachable (hrun hr)
  · simpa only [key, codeAt, hclear, hfree] using hs.allocated (hrun hr)
  · simpa only [key, codeAt] using hs.distinct (hrun hr)

/-- Outside a run nothing is asked of the dictionary. -/
theorem State.DictInv.of_not_inRun {s : State} (h : ¬ s.inRun) : s.DictInv :=
  ⟨fun hr => absurd hr h, fun hr => absurd hr h, fun hr => absurd hr h⟩

theorem State.DictInv.of_empty {s : State} (h : s.ht = Vector.replicate Config.hSize none) : s.DictInv := by
  have key : ∀ i, s.key i = none := fun i => by simp [State.key, h]
  exact ⟨fun _ i _ _ hkey => absurd ((key i).symm.trans hkey) nofun, fun _ i hi => absurd (key i) hi,
    fun _ i _ hi => absurd (key i) hi⟩

/-- A key is stored under FREE_ENT, and FREE_ENT goes on to the next code (R136, R155). -/
def State.allocate (s : State) (slot : Slot) (fcode : Key) : State :=
  { s.dictInsert slot.toNat fcode (s.freeEnt.setWidth 12) with freeEnt := s.freeEnt + 1#13 }

section
variable {s : State} {slot : Slot} (hslot : slot.toNat < 5003) (fcode : Key)
include hslot

theorem State.key_allocate (j : Nat) : (s.allocate slot fcode).key j = if slot.toNat = j then some fcode else s.key j :=
  s.key_dictInsert _ _ _ (s.freeEnt.setWidth 12) hslot

theorem State.codeAt_allocate (j : Nat) :
    (s.allocate slot fcode).codeAt j = if slot.toNat = j then s.freeEnt.setWidth 12 else s.codeAt j :=
  s.codeAt_dictInsert _ _ fcode _ hslot

end

theorem State.dictLookup_allocate (s : State) (slot : Slot) (fcode : Key) (ent : Code) (c : Byte) :
    (s.allocate slot fcode).dictLookup ent c =
      (s.dictInsert slot.toNat fcode (s.freeEnt.setWidth 12)).dictLookup ent c :=
  State.dictLookup_congr _ _ _ _ rfl rfl

/-- The pair of a miss is stored under a code above all those in use (R137). -/
theorem State.DictInv.allocate {s : State} (hs : s.DictInv) (hrun : s.inRun)
    (hfree : s.clear.toNat + 2 ≤ s.freeEnt.toNat ∧ s.freeEnt.toNat < 4096) {ent : Code} {c : Byte} {slot : Slot}
    (hmiss : s.dictLookup ent c = .miss slot) : (s.allocate slot (fcodeOf ent c)).DictInv := by
  obtain ⟨hslot, hempty⟩ := State.dictLookup_miss_slot hmiss
  have code : (s.freeEnt.setWidth 12 : Code).toNat = s.freeEnt.toNat := by rw [BitVec.toNat_setWidth]; omega
  have next : (s.allocate slot (fcodeOf ent c)).freeEnt.toNat = s.freeEnt.toNat + 1 :=
    BitVec.toNat_add_of_lt (by simp only [BitVec.toNat_ofNat]; omega)
  have clear : (s.allocate slot (fcodeOf ent c)).clear = s.clear := rfl
  have fresh : ∀ j, s.key j ≠ none → s.codeAt j ≠ s.freeEnt.setWidth 12 := fun j hj he => by
    have below := (hs.allocated hrun j hj).2
    rw [he, code] at below
    exact lt_irrefl _ below
  refine ⟨fun _ j ent' c' hkey => ?_, fun _ j hj => ?_, fun _ i j hi hj he => ?_⟩
  · rw [State.dictLookup_allocate, State.codeAt_allocate hslot]
    rw [State.key_allocate hslot] at hkey
    split_ifs at hkey ⊢ with hnew
    · obtain ⟨rfl, rfl⟩ := fcodeOf_inj.1 (Option.some.inj hkey)
      rw [State.dictLookup_dictInsert_of_miss hmiss, ← hnew, BitVec.ofNat_toNat, BitVec.setWidth_eq]
    · exact State.dictLookup_dictInsert_of_hit hslot hempty _ _ (hs.reachable hrun j ent' c' hkey)
  · rw [State.key_allocate hslot] at hj
    rw [State.codeAt_allocate hslot, next, clear]
    split_ifs at hj ⊢ with hnew
    · rw [code]
      omega
    · have := hs.allocated hrun j hj
      omega
  · rw [State.key_allocate hslot] at hi hj
    rw [State.codeAt_allocate hslot, State.codeAt_allocate hslot] at he
    split_ifs at hi hj he with hin hjn hjn
    · exact hin.symm.trans hjn
    · exact absurd he.symm (fresh j hj)
    · exact absurd he (fresh i hi)
    · exact hs.distinct hrun i j hi hj he

/-! ### The operations of a run -/

theorem Emits.dictView {s t : State} (h : Emits s t) : t.dictView = s.dictView := h.keeps State.dictView fun _ => rfl

theorem State.pixelHit_dictView {s : State} (hne : s.cursor ≠ s.n) : s.pixelHit.OnOk fun t => t.dictView = s.dictView :=
  State.withLookup_onOk hne (fun _ _ _ _ _ => Flow.onOk_ok.2 rfl) fun _ _ _ _ => Flow.onOk_ok.2 rfl

theorem State.pixelMissFull_dictView {s : State} (hne : s.cursor ≠ s.n) : s.pixelMissFull.OnOk fun t => t.dictView = s.dictView := by
  have emitted : ∀ (c : Byte) d, (((s.withDraws d).advance.emit (s.withDraws d).advance.ent).andThen
      fun u => .ok { u with ent := c.setWidth 12, state := stClearing }).OnOk fun t => t.dictView = s.dictView := fun c d =>
    (State.emit_emits _ _).onOk.andThen fun u hu => Flow.onOk_ok.2 hu.dictView
  exact State.withLookup_onOk hne (fun _ _ c d _ => emitted c d) fun _ c d _ => emitted c d

/-- The pixel steps on a miss, with the pair that was looked up. -/
theorem State.withLookup_onOk_of_miss {P : State → Prop} {s : State} {k : Code → Slot → Key → Byte → State → Flow}
    (hne : s.cursor ≠ s.n) (hhit : ∀ code slot, s.dictLookup s.ent (s.pixRead s.cursor.toNat).1 ≠ .hit code slot)
    (hmiss : ∀ slot c d, s.dictLookup s.ent c = .miss slot →
      (k 0#12 slot (fcodeOf s.ent c) c (s.withDraws d).advance).OnOk P) : (s.withLookup k).OnOk P := by
  obtain ⟨c, d, rfl, heq⟩ := s.withLookup_eq k hne
  rw [heq]
  cases hl : s.dictLookup s.ent (s.pixRead s.cursor.toNat).1 with
  | hit code slot => exact absurd hl (hhit code slot)
  | miss slot => exact hmiss slot _ d hl
  | endless => exact Flow.onOk_stuck

/-- PIXEL_MISS_INSERT (R155): the emission leaves the table, so the slot of the miss is still the one of the pair. -/
theorem State.pixelMissInsert_dictInv {s : State} (hs : s.DictInv) (hr : s.RunInv) (hst : s.state = stRunning)
    (hne : s.cursor ≠ s.n) (hhit : ∀ code slot, s.dictLookup s.ent (s.pixRead s.cursor.toNat).1 ≠ .hit code slot)
    (hfull : s.freeEnt.toNat ≠ 4096) : s.pixelMissInsert.OnOk State.DictInv := by
  refine State.withLookup_onOk_of_miss hne hhit fun slot c d hl => (State.emit_emits _ _).onOk.andThen fun u hu =>
    Flow.onOk_ok.2 ?_
  have view : u.dictView = s.dictView := hu.dictView
  simp only [State.dictView, Prod.mk.injEq] at view
  obtain ⟨hclear, hfree, hht, hct⟩ := view
  exact State.DictInv.allocate (s := { u with ent := c.setWidth 12 }) (hs.of_dictView (fun _ => .inl hst) hu.dictView)
    (.inl ((hu.keeps State.state fun _ => rfl).trans hst))
    (by dsimp only; rw [hclear, hfree]; exact ⟨hr.freeEnt_range.1, lt_of_le_of_ne hr.freeEnt_range.2 hfull⟩)
    ((s.dictLookup_congr { u with ent := c.setWidth 12 } s.ent c hht hct).trans hl)

/-- CLEAR_BLOCK (R157) ends with an empty table. -/
theorem State.clearBlock_ht (s : State) : s.clearBlock.OnOk fun t => t.ht = Vector.replicate Config.hSize none := by
  unfold State.clearBlock
  exact (State.emit_emits _ _).onOk.andThen fun u hu => Flow.onOk_ok.2 (hu.keeps State.ht fun _ => rfl)

theorem State.firstPixel_dictView (s : State) : s.firstPixel.dictView = s.dictView := by
  unfold State.firstPixel
  rcases s.nextPixel_cases with ⟨_, h⟩ | ⟨_, c, d, _, h⟩ <;> rw [h] <;> rfl

/-- START_OK (R153) begins a run with an empty table. -/
theorem State.startOk_ht (s : State) : s.startOk.OnOk fun t => t.ht = Vector.replicate Config.hSize none := by
  unfold State.startOk
  exact (State.sinkWrite_emits _ _).onOk.andThen fun t _ => (State.emit_emits _ _).onOk.andThen fun v hv =>
    Flow.onOk_ok.2 ((hv.keeps State.ht fun _ => rfl).trans (congrArg (·.2.2.1) t.freshRun.firstPixel_dictView))

/-! ### The soundness through an operation and through a step -/

/-- However an operation ends, the dictionary is sound if it is where the actions go on to their end: SinkFailure ends the run (R244), and
a step that does not end leaves the tables (log 5). -/
theorem Flow.settle_dictInv {r : Flow} {before : State} (hs : before.DictInv) (hok : r.OnOk State.DictInv) :
    (r.settle before).DictInv := by
  rcases r.settle_cases before with ⟨t, rfl, h⟩ | ⟨t, rfl, h⟩ | ⟨w, t, rfl, h⟩ <;> rw [h]
  · exact Flow.onOk_ok.1 hok
  · exact .of_not_inRun (State.not_inRun (by rw [State.raise_sinkFailure_state]; decide))
  · exact hs.of_dictView id rfl

/-- The operation that the dispatch vector selects keeps the dictionary sound. -/
theorem State.DictInv.dispatched {s t : State} {dv : BitVec 8} {i : Instr} (hs : s.DictInv) (hinv : s.Inv)
    (hv : s.dispatchVector = some dv) (hd : decodeDispatch dv = .ok i) (h : exec i s = .next t) : t.DictInv := by
  have eos : s.eos = false → s.cursor ≠ s.n := fun he hc => by simp [State.eos, hc] at he
  rcases State.dispatch_cases hv hd with ⟨_, _, rfl⟩ | ⟨_, rfl⟩ | ⟨hst, rfl⟩ | ⟨hst, he, rfl⟩ | ⟨hst, he, _, rfl⟩ |
    ⟨hst, he, hfull, hhit, rfl⟩ | ⟨_, rfl⟩
  · cases h
    exact Flow.settle_dictInv hs (s.startOk_ht.imp fun _ => .of_empty)
  · cases h
    exact .of_not_inRun (State.not_inRun (by rw [State.raise_invalidInput_state]; decide))
  · obtain ⟨_, rfl⟩ := State.withRoom_next h
    exact Flow.settle_dictInv hs ((State.finish_empties (hinv.in_run (.inl hst))).imp fun u ⟨hdone, _⟩ =>
      .of_not_inRun (State.not_inRun (by rw [hdone]; decide)))
  · cases h
    exact Flow.settle_dictInv hs ((State.pixelHit_dictView (eos he)).imp fun _ => hs.of_dictView fun _ => .inl hst)
  · obtain ⟨_, rfl⟩ := State.withRoom_next h
    exact Flow.settle_dictInv hs ((State.pixelMissFull_dictView (eos he)).imp fun _ => hs.of_dictView fun _ => .inl hst)
  · obtain ⟨_, rfl⟩ := State.withRoom_next h
    have hr := hinv.in_run (.inl hst)
    exact Flow.settle_dictInv hs (State.pixelMissInsert_dictInv hs hr hst (eos he)
      (State.dictLookup_ne_hit hst (hr.cursor_lt (eos he)) hhit) (by simpa [State.full] using hfull))
  · obtain ⟨_, rfl⟩ := State.withRoom_next h
    exact Flow.settle_dictInv hs (s.clearBlock_ht.imp fun _ => .of_empty)

theorem State.DictInv.engineTurn {s u t : State} (hu : u.DictInv) (hinv : u.Inv) (hf : s.fetch = u.engineTurn)
    (h : step s = .next t) : t.DictInv := by
  rcases step_engineTurn hf h with rfl | rfl | ⟨dv, i, hv, hd, hx⟩
  · exact hu
  · exact hu.of_dictView id rfl
  · exact hu.dispatched hinv hv hd hx

/-- A host transaction (R98) reaches neither the run nor the tables. -/
theorem State.DictInv.hostTransaction {s t : State} (hs : s.DictInv) {hb : BitVec 37} (h : exec (decodeHost hb) s = .next t) :
    t.DictInv := by
  unfold decodeHost at h
  split at h <;> cases h
  · rcases s.csrStore_cases (field hb 32 4) (field hb 0 32) with ⟨_, _, h⟩ | ⟨_, _, _, _, h⟩ <;> rw [h] <;>
      exact hs.of_dictView id rfl
  · exact hs.of_dictView id rfl

/-- The soundness after any step, by the move fetched (R73). -/
theorem State.DictInv.step {s t : State} (hs : s.DictInv) (hinv : s.Inv) (h : step s = .next t) : t.DictInv := by
  have taken : ∀ rest, (s.withInputs rest).DictInv := fun _ => hs.of_dictView id rfl
  rcases s.fetch_cases with ⟨_, hf⟩ | ⟨rest, hin, hf⟩ | ⟨hb, rest, _, hf⟩ | ⟨rest, _, hf⟩ | ⟨call, rest, hin, _⟩ |
    ⟨a, b, rest, _, hf⟩
  · exact hs.engineTurn hinv hf h
  · exact (taken rest).engineTurn (hinv.withInputs hin) hf h
  · exact (taken rest).hostTransaction ((step_of_run hf).symm.trans h)
  · cases (step_of_run hf).symm.trans h
    exact .of_not_inRun (State.not_inRun (by rw [State.applyReset_state]; decide))
  · exact absurd (hinv.no_calls (.primitive call) (by simp [hin])) nofun
  · cases (step_of_move hf).symm.trans h
    exact (taken rest).of_dictView id rfl

end Sys2Proof.Machine

open Sys2Proof Sys2Proof.Machine

/-- Settles O58: a run begins and a clear ends with no pair stored, and each pair stored since is new, under a code above the others;
SinkFailure ends the run. -/
theorem everyStepKeepsTheDictionarySound : Obligations.EveryStepKeepsTheDictionarySound :=
  fun _ _ hinv hs h => hs.step hinv h
end

section
/-! PROOFS. HT and CT through an operation (42_dictionary.md rule R138): an operation that inserts nothing keeps CT, and HT too unless it
clears, as long as it raises no SinkFailure (60_exceptions.md rule R244), which does not depend on the ERRCODE it began with. -/

namespace Sys2Proof

/-- An operation that empties HT (R130). -/
def Instr.clears : Instr → Bool
  | .startOk => true
  | .clearBlock => true
  | .dictClear => true
  | _ => false

theorem Instr.clears_eq_false {i : Instr} (h1 : i ≠ .startOk) (h2 : i ≠ .clearBlock) (h3 : i ≠ .dictClear) : i.clears = false := by
  cases i with
  | startOk => exact absurd rfl h1
  | clearBlock => exact absurd rfl h2
  | dictClear => exact absurd rfl h3
  | _ => rfl

end Sys2Proof

namespace Sys2Proof.Machine

/-! ### The operations with another ERRCODE (R35) -/

theorem Flow.andThen_of_setErr {r r' : Flow} {f : State → Flow} {e : BitVec 4} (hr : r' = r.setErr e)
    (hf : ∀ s, f (s.setErr e) = (f s).setErr e) : r'.andThen f = (r.andThen f).setErr e := by
  rw [hr, r.andThen_setErr f e hf]

theorem State.nextPixel_setErr (s : State) (e : BitVec 4) :
    (s.setErr e).nextPixel = (s.nextPixel.1, s.nextPixel.2.1, s.nextPixel.2.2.setErr e) := by
  have read : ∀ a, (s.setErr e).pixRead a = ((s.pixRead a).1, (s.pixRead a).2.setErr e) := fun a => by
    unfold State.pixRead
    change (if a ∈ s.pixDirty then _ else _) = _
    split_ifs <;> rfl
  unfold State.nextPixel
  rw [read]
  change (if s.cursor = s.n then _ else _) = _
  split_ifs <;> rfl

theorem State.withLookup_setErr (s : State) {k : Code → Slot → Key → Byte → State → Flow} (e : BitVec 4)
    (hk : ∀ code slot key c t, k code slot key c (t.setErr e) = (k code slot key c t).setErr e) :
    (s.setErr e).withLookup k = (s.withLookup k).setErr e := by
  unfold State.withLookup
  rw [s.nextPixel_setErr]
  rcases s.nextPixel with ⟨eos, c, t⟩
  dsimp only
  have lookup : (t.setErr e).dictLookup (t.setErr e).ent c = t.dictLookup t.ent c := t.dictLookup_congr (t.setErr e) _ _ rfl rfl
  rw [lookup]
  cases t.dictLookup t.ent c with
  | hit code slot => exact hk _ _ _ _ t
  | miss slot => exact hk _ _ _ _ t
  | endless => rfl

theorem State.pixelHit_setErr (s : State) (e : BitVec 4) : (s.setErr e).pixelHit = s.pixelHit.setErr e :=
  s.withLookup_setErr e fun _ _ _ _ _ => rfl

theorem State.pixelMissFull_setErr (s : State) (e : BitVec 4) : (s.setErr e).pixelMissFull = s.pixelMissFull.setErr e :=
  s.withLookup_setErr e fun _ _ _ _ t => Flow.andThen_of_setErr (t.emit_setErr t.ent e) fun _ => rfl

theorem State.clearBlock_setErr (s : State) (e : BitVec 4) : (s.setErr e).clearBlock = s.clearBlock.setErr e :=
  Flow.andThen_of_setErr (State.emit_setErr { s.dictClear with freeEnt := firstFree s.clear, clearFlag := true }
    (s.clear.setWidth 12) e) fun _ => rfl

theorem State.finish_setErr (s : State) (e : BitVec 4) : (s.setErr e).finish = s.finish.setErr e := by
  have last : (if (s.setErr e).entValid then (s.setErr e).emit (s.setErr e).ent else .ok (s.setErr e)) =
      (if s.entValid then s.emit s.ent else .ok s).setErr e := by
    change (if s.entValid then _ else _) = _
    split_ifs
    · exact s.emit_setErr s.ent e
    · rfl
  exact Flow.andThen_of_setErr last fun t => Flow.andThen_of_setErr (t.emit_setErr _ e) fun u =>
    Flow.andThen_of_setErr (u.sinkWrite_setErr _ e) fun _ => rfl

/-- START_OK clears ERRCODE before its first byte (R153). -/
theorem State.startOk_setErr (s : State) (e : BitVec 4) : (s.setErr e).startOk = s.startOk := rfl

/-! ### The tables -/

/-- From s to t CT is kept, and HT too unless it was cleared. -/
structure KeepsTables (clears : Bool) (s t : State) : Prop where
  ct_eq : t.ct = s.ct
  ht_eq : clears = false → t.ht = s.ht

theorem KeepsTables.refl (b : Bool) (s : State) : KeepsTables b s s := ⟨rfl, fun _ => rfl⟩

theorem KeepsTables.trans {b : Bool} {s t u : State} (h1 : KeepsTables b s t) (h2 : KeepsTables b t u) : KeepsTables b s u :=
  ⟨h2.ct_eq.trans h1.ct_eq, fun hb => (h2.ht_eq hb).trans (h1.ht_eq hb)⟩

theorem Emits.keepsTables {s t : State} (b : Bool) (h : Emits s t) : KeepsTables b s t :=
  ⟨h.keeps State.ct fun _ => rfl, fun _ => h.keeps State.ht fun _ => rfl⟩

theorem State.emit_keepsTables (b : Bool) (s : State) (code : Code) : (s.emit code).All (KeepsTables b s) :=
  (s.emit_emits code).imp fun _ h => h.keepsTables b

theorem KeepsTables.andThen {b : Bool} {s : State} {r : Flow} {f : State → Flow} (hr : r.All (KeepsTables b s))
    (hf : ∀ t, (f t).All (KeepsTables b t)) : (r.andThen f).All (KeepsTables b s) :=
  Flow.andThen_all hr fun t ht => (hf t).imp fun _ hu => ht.trans hu

theorem State.nextPixel_keepsTables (b : Bool) (s : State) : KeepsTables b s s.nextPixel.2.2 := by
  rcases s.nextPixel_cases with ⟨_, hn⟩ | ⟨_, c, d, _, hn⟩ <;> rw [hn] <;> exact ⟨rfl, fun _ => rfl⟩

theorem State.withLookup_keepsTables {b : Bool} (s : State) (k : Code → Slot → Key → Byte → State → Flow)
    (hk : ∀ code slot key c t, (k code slot key c t).All (KeepsTables b t)) : (s.withLookup k).All (KeepsTables b s) := by
  have next := s.nextPixel_keepsTables b
  unfold State.withLookup
  rcases hn : s.nextPixel with ⟨eos, c, t⟩
  rw [hn] at next
  dsimp only
  split
  · exact (hk _ _ _ _ t).imp fun _ => next.trans
  · exact (hk _ _ _ _ t).imp fun _ => next.trans
  · exact next

theorem State.pixelHit_keepsTables (b : Bool) (s : State) : s.pixelHit.All (KeepsTables b s) :=
  s.withLookup_keepsTables _ fun _ _ _ _ _ => ⟨rfl, fun _ => rfl⟩

theorem State.pixelMissFull_keepsTables (b : Bool) (s : State) : s.pixelMissFull.All (KeepsTables b s) :=
  s.withLookup_keepsTables _ fun _ _ _ _ t => KeepsTables.andThen (t.emit_keepsTables b t.ent) fun _ => ⟨rfl, fun _ => rfl⟩

theorem State.finish_keepsTables (b : Bool) (s : State) : s.finish.All (KeepsTables b s) := by
  unfold State.finish
  refine KeepsTables.andThen ?_ fun t => KeepsTables.andThen (t.emit_keepsTables b _) fun u => KeepsTables.andThen
    ((u.sinkWrite_emits _).imp fun _ h => h.keepsTables b) fun v => ⟨rfl, fun _ => rfl⟩
  split
  · exact s.emit_keepsTables b s.ent
  · exact KeepsTables.refl b s

theorem State.clearBlock_keepsTables (s : State) : s.clearBlock.All (KeepsTables true s) := by
  unfold State.clearBlock
  refine KeepsTables.andThen ((State.emit_keepsTables true _ _).imp fun _ h => KeepsTables.trans ?_ h) fun _ => ⟨rfl, nofun⟩
  exact ⟨rfl, nofun⟩

theorem State.startOk_keepsTables (s : State) : s.startOk.All (KeepsTables true s) := by
  unfold State.startOk
  have begun : KeepsTables true s s.startRun := ⟨rfl, nofun⟩
  refine KeepsTables.andThen ((State.sinkWrite_emits _ _).imp fun _ h => begun.trans (h.keepsTables true)) fun t =>
    KeepsTables.andThen ((State.emit_keepsTables true _ _).imp fun _ h => KeepsTables.trans ?_ h) fun _ => ⟨rfl, nofun⟩
  exact ⟨congrArg (·.2.2.2) t.freshRun.firstPixel_dictView, nofun⟩

/-! ### How an operation ends -/

/-- The actions end in a SinkFailure. -/
def Flow.Raises : Flow → Prop
  | .ok _ => False
  | .raised _ => True
  | .stuck _ _ => False

theorem Flow.Raises.of_setErr {r r' : Flow} {e : BitVec 4} (h : r.Raises) (hr : r' = r.setErr e) : r'.Raises := by
  subst hr
  cases r with
  | ok s => exact h
  | raised s => trivial
  | stuck w s => exact h

theorem Flow.Raises.settle_errCode {r : Flow} (h : r.Raises) (before : State) : (r.settle before).errCode = errSinkFailure := by
  cases r with
  | ok s => exact h.elim
  | raised s => rfl
  | stuck w s => exact h.elim

theorem Flow.settle_keepsTables {b : Bool} {r : Flow} {s : State} (hr : r.All (KeepsTables b s)) (hend : ¬ r.Raises) :
    KeepsTables b s (r.settle s) := by
  cases r with
  | ok t => exact hr
  | raised t => exact absurd trivial hend
  | stuck w t => exact ⟨rfl, fun _ => rfl⟩

/-- An operation that inserts nothing, by its actions in the state and in the state with ERRCODE 0 (R138). -/
theorem exec_keepsTables {i : Instr} {s t u : State} (h : exec i s = .next t) (hreset : i ≠ .reset)
    (h0 : exec i (s.setErr 0#4) = .next u) (hu : u.errCode ≠ errSinkFailure) (hmiss : i ≠ .pixelMissInsert)
    (hins : ∀ slot k code, i ≠ .dictInsert slot k code) : KeepsTables i.clears s t := by
  have ends : ∀ r r' : Flow, r.All (KeepsTables i.clears s) → r' = r.setErr 0#4 → r.settle s = t → r'.settle (s.setErr 0#4) = u →
      KeepsTables i.clears s t := fun r r' hr hr' ht hu' => ht ▸ Flow.settle_keepsTables hr fun hraise =>
    hu (hu' ▸ (hraise.of_setErr hr').settle_errCode _)
  have room : ∀ r r' : Flow, r.All (KeepsTables i.clears s) → r' = r.setErr 0#4 → s.withRoom r = exec i s →
      (s.setErr 0#4).withRoom r' = exec i (s.setErr 0#4) → KeepsTables i.clears s t := fun r r' hr hr' hx hx' =>
    ends r r' hr hr' (State.withRoom_next (hx.trans h)).2 (State.withRoom_next (hx'.trans h0)).2
  cases i with
  | reset => exact absurd rfl hreset
  | pixelMissInsert => exact absurd rfl hmiss
  | dictInsert slot k code => exact absurd rfl (hins slot k code)
  | startInvalid => cases h; exact ⟨rfl, fun _ => rfl⟩
  | startOk =>
    cases h
    cases h0
    exact Flow.settle_keepsTables s.startOk_keepsTables fun hraise => hu (hraise.settle_errCode _)
  | pixelHit => exact ends _ _ (s.pixelHit_keepsTables _) (s.pixelHit_setErr 0#4) (by cases h; rfl) (by cases h0; rfl)
  | pixelMissFull => exact room _ _ (s.pixelMissFull_keepsTables _) (s.pixelMissFull_setErr 0#4) rfl rfl
  | finish => exact room _ _ (s.finish_keepsTables _) (s.finish_setErr 0#4) rfl rfl
  | clearBlock => exact room _ _ s.clearBlock_keepsTables (s.clearBlock_setErr 0#4) rfl rfl
  | emit code => exact room _ _ (s.emit_keepsTables _ code) (s.emit_setErr code 0#4) rfl rfl
  | byteOut b =>
    exact room _ _ ((s.byteOut_emits b).imp fun _ h => h.keepsTables _) (s.byteOut_setErr b 0#4) rfl rfl
  | blockFlush =>
    exact ends _ _ (s.blockFlush_emits.imp fun _ h => h.keepsTables _) (s.blockFlush_setErr 0#4) (exec_blockFlush_next h).symm
      (exec_blockFlush_next h0).symm
  | headerOut init =>
    exact ends _ _ ((s.sinkWrite_emits _).imp fun _ h => h.keepsTables _) (s.sinkWrite_setErr (init.setWidth 8) 0#4)
      (by cases h; rfl) (by cases h0; rfl)
  | terminatorOut =>
    exact ends _ _ ((s.sinkWrite_emits _).imp fun _ h => h.keepsTables _) (s.sinkWrite_setErr 0x00#8 0#4)
      (by cases h; rfl) (by cases h0; rfl)
  | sinkWrite b =>
    exact ends _ _ ((s.sinkWrite_emits b).imp fun _ h => h.keepsTables _) (s.sinkWrite_setErr b 0#4)
      (by cases h; rfl) (by cases h0; rfl)
  | csrRead idx => cases h; exact ⟨rfl, fun _ => rfl⟩
  | csrWrite idx wdata =>
    cases h
    rcases s.csrStore_cases idx wdata with ⟨_, _, h⟩ | ⟨_, _, _, _, h⟩ <;> rw [h] <;> exact ⟨rfl, fun _ => rfl⟩
  | nextPixel => cases h; exact (s.nextPixel_keepsTables _).trans ⟨rfl, fun _ => rfl⟩
  | dictClear => cases h; exact ⟨rfl, nofun⟩
  | dictHash ent c => cases h; exact ⟨rfl, fun _ => rfl⟩
  | dictLookup ent c => rcases exec_dictLookup_next h with ⟨r, rfl⟩ | rfl <;> exact ⟨rfl, fun _ => rfl⟩
  | validate => cases h; exact ⟨rfl, fun _ => rfl⟩

end Sys2Proof.Machine

open Sys2Proof Sys2Proof.Machine

/-- Settles O51: the actions of the other operations keep the tables, and whether they end in a SinkFailure does not depend on ERRCODE. -/
theorem onlyDictionaryOperationsChangeTheTables : Obligations.OnlyDictionaryOperationsChangeTheTables := by
  intro i s t u h hreset h0 hu
  have keeps := exec_keepsTables h hreset h0 hu
  refine ⟨fun hstart hclear hmiss hdict hins j => ?_, fun hmiss hins j => ?_⟩
  · rw [State.key, State.key, (keeps hmiss hins).ht_eq (Instr.clears_eq_false hstart hclear hdict)]
  · rw [State.codeAt, State.codeAt, (keeps hmiss hins).ct_eq]
end

section
/-! PROOFS. EMIT and what it is made of, where the sink accepts: the state that each of them leaves, as a function of the state before it
(44_bit_packer.md rule R190, 45_block_writer.md rules R210, R211), and how many bytes it can ask the sink for. -/

namespace Sys2Proof.Machine

/-! ### The states left -/

/-- After BLOCK_FLUSH (R211). -/
def State.flushed (s : State) : State :=
  if 0 < s.aCount.toNat then { s.afterBytes (s.aCount :: s.pendingBytes) with aCount := 0#8 } else s

/-- After BYTE_OUT (R210). -/
def State.fed (s : State) (b : Byte) : State :=
  if (s.pushByte b).aCount.toNat = Config.blockMax then (s.pushByte b).flushed else s.pushByte b

/-- After k complete bytes have left the accumulator (R192). -/
def State.drained (s : State) : Nat → State
  | 0 => s
  | k + 1 => (s.fed (s.acc.setWidth 8)).dropByte.drained k

/-- After the flush at EOFC (R195). -/
def State.eofFlushed (s : State) : State :=
  (if 0 < s.bits.toNat then s.fed (s.acc.setWidth 8) else s).clearAcc.flushed

/-- After steps 1 to 3 of EMIT (R190): the code is appended, the complete bytes have left, the width is updated. -/
def State.packedUp (s : State) (code : Code) : State :=
  ((s.appendCode code).drained ((s.appendCode code).bits.toNat / 8)).updateWidth

/-- After EMIT (R190). -/
def State.emitted (s : State) (code : Code) : State :=
  if code.toNat = (s.packedUp code).eofc.toNat then (s.packedUp code).eofFlushed else s.packedUp code

/-! ### How many bytes they ask for -/

/-- From s to t the sink has accepted bytes, all of them from its list of answers, and those bytes and the block's are at most m more
than the block's before; everything outside the packer, the block and the sink is as before. -/
structure Accepted (m : Nat) (s t : State) : Prop where
  frame : t.emitView = s.emitView
  draws_eq : t.draws = s.draws
  bytes : ∃ bs, Outputs bs s t ∧ t.sinkAnswers = s.sinkAnswers.drop bs.length ∧
    bs.length + t.aCount.toNat ≤ s.aCount.toNat + m

/-- A change of the packer's fields alone. -/
theorem Accepted.of_packer {s t : State} (h : t.emitView = s.emitView)
    (hk : (t.draws, t.sinkOut, t.outCount, t.sinkAnswers, t.aCount) = (s.draws, s.sinkOut, s.outCount, s.sinkAnswers, s.aCount)) :
    Accepted 0 s t := by
  simp only [Prod.mk.injEq] at hk
  obtain ⟨hd, ho, hc, ha, hn⟩ := hk
  exact ⟨h, hd, [], .none ho hc, by simp [ha], by simp [hn]⟩

theorem Accepted.trans {m n : Nat} {s t u : State} (h1 : Accepted m s t) (h2 : Accepted n t u) : Accepted (m + n) s u := by
  obtain ⟨f1, d1, bs, o1, a1, l1⟩ := h1
  obtain ⟨f2, d2, cs, o2, a2, l2⟩ := h2
  exact ⟨f2.trans f1, d2.trans d1, bs ++ cs, o1.trans o2, by rw [a2, a1, List.drop_drop, List.length_append],
    by rw [List.length_append]; omega⟩

theorem Accepted.mono {m n : Nat} {s t : State} (h : Accepted m s t) (hm : m ≤ n) : Accepted n s t := by
  obtain ⟨f, d, bs, o, a, l⟩ := h
  exact ⟨f, d, bs, o, a, by omega⟩

theorem Accepted.emits {m : Nat} {s t : State} (h : Accepted m s t) : Emits s t := by
  obtain ⟨f, _, bs, o, _, _⟩ := h
  exact ⟨f, bs, o.sinkOut_eq, o.outCount_eq⟩

theorem State.accepts_of_drop {s t : State} {n j k : Nat} (h : s.accepts k) (ht : t.sinkAnswers = s.sinkAnswers.drop n)
    (hk : n + j ≤ k) : t.accepts j := by
  unfold State.accepts
  rw [ht]
  exact State.accepts_drop (s.accepts_le h hk)

/-- What the sink still accepts. -/
theorem Accepted.accepts {m j : Nat} {s t : State} (h : Accepted m s t) (hs : s.accepts (s.aCount.toNat + (m + j))) :
    t.accepts (t.aCount.toNat + j) := by
  obtain ⟨_, _, bs, _, ha, hl⟩ := h
  exact State.accepts_of_drop hs ha (by omega)

theorem State.pushByte_aCount_toNat {s : State} (h : s.aCount.toNat ≤ 253) (b : Byte) :
    (s.pushByte b).aCount.toNat = s.aCount.toNat + 1 :=
  BitVec.toNat_add_of_lt (by simp only [BitVec.toNat_ofNat]; omega)

theorem State.flushed_aCount (s : State) : s.flushed.aCount = 0#8 := by
  unfold State.flushed
  split
  case isTrue => rfl
  case isFalse hempty => exact BitVec.eq_of_toNat_eq (Nat.eq_zero_of_not_pos hempty)

theorem State.flushed_accepted (s : State) : Accepted 1 s s.flushed := by
  unfold State.flushed
  split
  · refine ⟨rfl, rfl, s.aCount :: s.pendingBytes, ⟨rfl, rfl⟩, rfl, ?_⟩
    simp
  · exact (Accepted.of_packer rfl rfl).mono (Nat.zero_le 1)

theorem State.fed_accepted {s : State} (h : s.aCount.toNat ≤ 253) (b : Byte) :
    Accepted 2 s (s.fed b) ∧ (s.fed b).aCount.toNat ≤ 253 := by
  have count := State.pushByte_aCount_toNat h b
  have pushed : Accepted 1 s (s.pushByte b) := ⟨rfl, rfl, [], .none rfl rfl, rfl, by simp only [count]; simp⟩
  unfold State.fed
  split
  case isTrue => exact ⟨pushed.trans (s.pushByte b).flushed_accepted, by rw [State.flushed_aCount]; decide⟩
  case isFalse hroom => exact ⟨pushed.mono (by decide), by simp only [Config.blockMax] at hroom; omega⟩

theorem State.drained_accepted (k : Nat) {s : State} (h : s.aCount.toNat ≤ 253) :
    Accepted (2 * k) s (s.drained k) ∧ (s.drained k).aCount.toNat ≤ 253 := by
  induction k generalizing s with
  | zero => exact ⟨.of_packer rfl rfl, h⟩
  | succ k ih =>
    obtain ⟨fed, room⟩ := State.fed_accepted h (s.acc.setWidth 8)
    obtain ⟨rest, hk⟩ := ih (s := (s.fed (s.acc.setWidth 8)).dropByte) room
    have dropped : Accepted 2 s (s.fed (s.acc.setWidth 8)).dropByte := fed.trans (n := 0) (.of_packer rfl rfl)
    exact ⟨(dropped.trans rest).mono (by omega), hk⟩

theorem State.updateWidth_accepted (s : State) : Accepted 0 s s.updateWidth := by
  unfold State.updateWidth
  split_ifs <;> exact .of_packer rfl rfl

theorem State.packedUp_accepted {s : State} (h : s.aCount.toNat ≤ 253) (code : Code) :
    Accepted 6 s (s.packedUp code) ∧ (s.packedUp code).aCount.toNat ≤ 253 := by
  obtain ⟨drained, room⟩ := State.drained_accepted ((s.appendCode code).bits.toNat / 8) (s := s.appendCode code) h
  have appended : Accepted 0 s (s.appendCode code) := .of_packer rfl rfl
  have held := (s.appendCode code).bits.isLt
  refine ⟨((appended.trans drained).trans (State.updateWidth_accepted _)).mono (by omega), ?_⟩
  have pack := State.updateWidth_pack ((s.appendCode code).drained ((s.appendCode code).bits.toNat / 8))
  simp only [Prod.mk.injEq] at pack
  exact pack.2.2 ▸ room

theorem State.eofFlushed_accepted {s : State} (h : s.aCount.toNat ≤ 253) : Accepted 3 s s.eofFlushed := by
  have partialByte : Accepted 2 s (if 0 < s.bits.toNat then s.fed (s.acc.setWidth 8) else s) := by
    split
    · exact (State.fed_accepted h _).1
    · exact (Accepted.of_packer rfl rfl).mono (by decide)
  exact (partialByte.trans (n := 0) (Accepted.of_packer (t := State.clearAcc _) rfl rfl)).trans (State.flushed_accepted _)

/-- EMIT asks the sink for at most 9 bytes more than the block holds. -/
theorem State.emitted_accepted {s : State} (h : s.aCount.toNat ≤ 253) (code : Code) :
    Accepted 9 s (s.emitted code) ∧ (s.emitted code).aCount.toNat ≤ 253 := by
  obtain ⟨up, room⟩ := State.packedUp_accepted h code
  unfold State.emitted
  split
  · exact ⟨up.trans (State.eofFlushed_accepted room), by unfold State.eofFlushed; rw [State.flushed_aCount]; decide⟩
  · exact ⟨up.mono (by decide), room⟩

/-! ### They are what the actions lead to -/

theorem State.blockFlush_eq {s : State} (h : s.accepts (s.aCount.toNat + 1)) : s.blockFlush = .ok s.flushed := by
  unfold State.flushed
  split
  case isTrue hpos => exact s.blockFlush_accept hpos h
  case isFalse hempty => rw [State.blockFlush, if_neg hempty]

theorem State.byteOut_eq {s : State} (ha : s.aCount.toNat ≤ 253) (b : Byte) (h : s.accepts (s.aCount.toNat + 2)) :
    s.byteOut b = .ok (s.fed b) := by
  unfold State.byteOut State.fed
  split
  · exact State.blockFlush_eq (by rw [State.pushByte_aCount_toNat ha b]; exact h)
  · rfl

theorem State.drain_eq (k : Nat) {s : State} (ha : s.aCount.toNat ≤ 253) (h : s.accepts (s.aCount.toNat + 2 * k)) :
    s.drain k = .ok (s.drained k) := by
  induction k generalizing s with
  | zero => rfl
  | succ k ih =>
    obtain ⟨fed, room⟩ := State.fed_accepted ha (s.acc.setWidth 8)
    rw [State.drain, State.byteOut_eq ha _ (s.accepts_le h (by omega)), Flow.andThen_ok, State.drained]
    exact ih (s := (s.fed (s.acc.setWidth 8)).dropByte) room (fed.accepts (s.accepts_le h (by omega)))

theorem State.eofFlush_eq {s : State} (ha : s.aCount.toNat ≤ 253) (h : s.accepts (s.aCount.toNat + 3)) :
    s.eofFlush = .ok s.eofFlushed := by
  unfold State.eofFlush State.eofFlushed
  split
  · obtain ⟨fed, _⟩ := State.fed_accepted ha (s.acc.setWidth 8)
    rw [State.byteOut_eq ha _ (s.accepts_le h (by omega)), Flow.andThen_ok]
    exact State.blockFlush_eq (s := (s.fed (s.acc.setWidth 8)).clearAcc) (fed.accepts h)
  · exact State.blockFlush_eq (s := s.clearAcc) (s.accepts_le h (by rw [State.clearAcc_aCount]; omega))

/-- EMIT (R190) where the sink accepts. -/
theorem State.emit_eq {s : State} (ha : s.aCount.toNat ≤ 253) (h : s.accepts (s.aCount.toNat + 9)) (code : Code) :
    s.emit code = .ok (s.emitted code) := by
  obtain ⟨up, room⟩ := State.packedUp_accepted ha code
  have held := (s.appendCode code).bits.isLt
  have left : (s.packedUp code).accepts ((s.packedUp code).aCount.toNat + 3) := up.accepts h
  unfold State.emit State.emitted
  dsimp only
  rw [State.drain_eq (s := s.appendCode code) _ ha (s.accepts_le h (by rw [State.appendCode_aCount]; omega)), Flow.andThen_ok,
    ← State.packedUp]
  split
  · exact State.eofFlush_eq room left
  · rfl

theorem exec_emit_eq {s : State} (ha : s.aCount.toNat ≤ 253) (h : s.accepts (s.aCount.toNat + 9)) (code : Code) :
    exec (.emit code) s = .next (s.emitted code) := by
  change s.withRoom (s.emit code) = _
  rw [State.withRoom_of_le ha, State.emit_eq ha h]
  rfl

/-- 512 answers are enough for an emission. -/
theorem State.accepts_emission {s : State} (ha : s.aCount.toNat ≤ 253) (h : s.accepts 512) : s.accepts (s.aCount.toNat + 9) :=
  s.accepts_le h (by omega)

/-! ### What they leave -/

theorem State.flushed_packer (s : State) : s.flushed.packer = s.packer := by
  unfold State.flushed
  split <;> rfl

theorem State.fed_packer (s : State) (b : Byte) : (s.fed b).packer = s.packer := by
  unfold State.fed
  split
  · exact State.flushed_packer _
  · rfl

theorem State.drained_widths (k : Nat) (s : State) : (s.drained k).widths = s.widths := by
  induction k generalizing s with
  | zero => rfl
  | succ k ih => exact (ih _).trans (widths_of_packer (t := s.fed (s.acc.setWidth 8)) (s.fed_packer _))

theorem State.eofFlushed_packer (s : State) : s.eofFlushed.packer = (s.nBits, s.maxCode, s.clearFlag, 0#19, 0#5) := by
  have partialByte : (if 0 < s.bits.toNat then s.fed (s.acc.setWidth 8) else s).widths = s.widths := by
    split
    · exact widths_of_packer (s.fed_packer _)
    · rfl
  simp only [State.widths, Prod.mk.injEq] at partialByte
  unfold State.eofFlushed
  rw [State.flushed_packer]
  simp [State.packer, partialByte]

theorem State.packedUp_widths {s : State} (ha : s.aCount.toNat ≤ 253) (code : Code) :
    (s.packedUp code).widths = s.updateWidth.widths := by
  have drained := (State.drained_accepted ((s.appendCode code).bits.toNat / 8) (s := s.appendCode code) ha).1.emits
  exact State.updateWidth_congr (State.drained_widths _ _) (drained.keeps State.init fun _ => rfl)
    (drained.keeps State.freeEnt fun _ => rfl)

/-- EMIT updates the width once (R190, R194). -/
theorem State.emitted_widths {s : State} (ha : s.aCount.toNat ≤ 253) (code : Code) :
    (s.emitted code).widths = s.updateWidth.widths := by
  unfold State.emitted
  split
  · exact (congrArg (fun p : BitVec 4 × BitVec 12 × Bool × BitVec 19 × BitVec 5 => (p.1, p.2.1, p.2.2.1))
      (State.eofFlushed_packer _)).trans (State.packedUp_widths ha code)
  · exact State.packedUp_widths ha code

/-- At EOFC nothing stays pending (R195). -/
theorem State.emitted_eof {s : State} (ha : s.aCount.toNat ≤ 253) {code : Code} (h : code.toNat = s.eofc.toNat) :
    (s.emitted code).acc = 0#19 ∧ (s.emitted code).bits = 0#5 ∧ (s.emitted code).aCount = 0#8 := by
  have eofc : (s.packedUp code).eofc = s.eofc := (State.packedUp_accepted ha code).1.emits.keeps State.eofc fun _ => rfl
  unfold State.emitted
  rw [if_pos (by rw [eofc, h])]
  have packer := (s.packedUp code).eofFlushed_packer
  exact ⟨congrArg (·.2.2.2.1) packer, congrArg (·.2.2.2.2) packer, State.flushed_aCount _⟩

theorem State.updateWidth_clearFlag (s : State) : s.updateWidth.clearFlag = false := by
  unfold State.updateWidth
  split_ifs with hflag
  · rfl
  · exact Bool.eq_false_of_not_eq_true hflag
  · exact Bool.eq_false_of_not_eq_true hflag

/-! ### They do not read CURSOR -/

/-- The state with another CURSOR and another number of free values drawn. -/
def State.withRead (s : State) (cursor : Word) (draws : Nat) : State := { s with cursor := cursor, draws := draws }

section
variable (s : State) (cursor : Word) (draws : Nat)

theorem State.flushed_withRead : (s.withRead cursor draws).flushed = s.flushed.withRead cursor draws := by
  unfold State.flushed
  rw [apply_ite (State.withRead · cursor draws)]
  rfl

theorem State.fed_withRead (b : Byte) : (s.withRead cursor draws).fed b = (s.fed b).withRead cursor draws := by
  unfold State.fed
  rw [apply_ite (State.withRead · cursor draws), ← State.flushed_withRead]
  rfl

theorem State.drained_withRead (k : Nat) : (s.withRead cursor draws).drained k = (s.drained k).withRead cursor draws := by
  induction k generalizing s with
  | zero => rfl
  | succ k ih =>
    rw [State.drained, State.fed_withRead]
    exact ih (s.fed (s.acc.setWidth 8)).dropByte

theorem State.updateWidth_withRead : (s.withRead cursor draws).updateWidth = s.updateWidth.withRead cursor draws := by
  unfold State.updateWidth
  rw [apply_ite (State.withRead · cursor draws), apply_ite (State.withRead · cursor draws)]
  rfl

theorem State.eofFlushed_withRead : (s.withRead cursor draws).eofFlushed = s.eofFlushed.withRead cursor draws := by
  unfold State.eofFlushed
  rw [State.fed_withRead, ← State.flushed_withRead]
  congr 1
  exact congrArg State.clearAcc (apply_ite (State.withRead · cursor draws) _ _ _).symm

theorem State.packedUp_withRead (code : Code) : (s.withRead cursor draws).packedUp code = (s.packedUp code).withRead cursor draws :=
  (congrArg State.updateWidth ((s.appendCode code).drained_withRead cursor draws _)).trans (State.updateWidth_withRead _ _ _)

/-- EMIT neither reads nor writes CURSOR and, where the sink accepts, draws no free value. -/
theorem State.emitted_withRead (code : Code) : (s.withRead cursor draws).emitted code = (s.emitted code).withRead cursor draws := by
  unfold State.emitted
  rw [State.packedUp_withRead, State.eofFlushed_withRead, apply_ite (State.withRead · cursor draws)]
  rfl

end

end Sys2Proof.Machine
end

section
/-! PROOFS. The Encoder Driver (43_driver.md): VALIDATE, the rejected START, the pixel steps, the clear and the end, each as the state that
it leaves where the sink accepts. -/

namespace Sys2Proof.Machine

/-! ### VALIDATE (R151) -/

/-- The reasons are the four checks side by side, BAD_WIDTH lowest. -/
theorem State.validate_bits (s : State) :
    s.validate.getLsbD 0 = decide (s.lWidth.toNat = 0) ∧
    s.validate.getLsbD 1 = decide (s.lHeight.toNat = 0) ∧
    s.validate.getLsbD 2 = decide (s.lDepth.toNat = 0 ∨ 8 < s.lDepth.toNat) ∧
    s.validate.getLsbD 3 = decide (s.lBuflen.toNat < s.lWidth.toNat * s.lHeight.toNat) := by
  have word : s.validate = (BitVec.ofBool (decide (s.lBuflen.toNat < s.lWidth.toNat * s.lHeight.toNat)) ++
    BitVec.ofBool (decide (s.lDepth.toNat = 0 ∨ 8 < s.lDepth.toNat)) ++
    BitVec.ofBool (decide (s.lHeight.toNat = 0)) ++ BitVec.ofBool (decide (s.lWidth.toNat = 0)) :) := rfl
  rw [word]
  simp (disch := decide) only [getLsbD_append_high, getLsbD_append_low, getLsbD_ofBool_zero, and_self]

/-! ### The beginning of a pixel step (R120, R133) -/

/-- The pixel at CURSOR has been read. -/
def State.pixelTaken (s : State) : State := s.withRead (s.cursor + 1#32) (s.pixRead s.cursor.toNat).2.draws

theorem State.nextPixel_of_ne {s : State} (h : s.cursor ≠ s.n) :
    s.nextPixel = (false, (s.pixRead s.cursor.toNat).1, s.pixelTaken) := by
  obtain ⟨d, hd⟩ := s.pixRead_state s.cursor.toNat
  rw [State.nextPixel, if_neg h, State.pixelTaken]
  dsimp only
  rw [hd]
  rfl

/-- The lookup sees neither CURSOR nor the number of free values drawn. -/
theorem State.pixelTaken_dictLookup (s : State) (c : Byte) :
    s.pixelTaken.dictLookup s.pixelTaken.ent c = s.dictLookup s.ent c :=
  s.dictLookup_congr s.pixelTaken s.ent c rfl rfl

section
variable {s : State} {k : Code → Slot → Key → Byte → State → Flow} {slot : Slot} (hne : s.cursor ≠ s.n)
include hne

theorem State.withLookup_of_hit {code : Code} (hl : s.dictLookup s.ent (s.pixRead s.cursor.toNat).1 = .hit code slot) :
    s.withLookup k = k code slot (fcodeOf s.ent (s.pixRead s.cursor.toNat).1) (s.pixRead s.cursor.toNat).1 s.pixelTaken := by
  rw [State.withLookup, State.nextPixel_of_ne hne]
  dsimp only
  rw [State.pixelTaken_dictLookup, hl]
  rfl

theorem State.withLookup_of_miss (hl : s.dictLookup s.ent (s.pixRead s.cursor.toNat).1 = .miss slot) :
    s.withLookup k = k 0#12 slot (fcodeOf s.ent (s.pixRead s.cursor.toNat).1) (s.pixRead s.cursor.toNat).1 s.pixelTaken := by
  rw [State.withLookup, State.nextPixel_of_ne hne]
  dsimp only
  rw [State.pixelTaken_dictLookup, hl]
  rfl

/-! ### The pixel steps (R154 to R156) -/

theorem exec_pixelHit_of_hit {code : Code} (hl : s.dictLookup s.ent (s.pixRead s.cursor.toNat).1 = .hit code slot) :
    exec .pixelHit s = .next { s.pixelTaken with ent := code } := by
  change Host.Outcome.next (s.pixelHit.settle s) = _
  rw [State.pixelHit, State.withLookup_of_hit hne hl]
  rfl

end

/-- The state with the pixel c as ENT, CURSOR behind it, and the number of free values drawn. -/
def State.withPixel (s : State) (cursor : Word) (draws : Nat) (c : Byte) : State :=
  { s.withRead cursor draws with ent := c.setWidth 12 }

/-- The old ENT has been emitted, and the pixel read is the new one. -/
def State.pixelEmitted (s : State) : State :=
  (s.emitted s.ent).withPixel (s.cursor + 1#32) (s.pixRead s.cursor.toNat).2.draws (s.pixRead s.cursor.toNat).1

section
variable (s : State) (cursor : Word) (draws : Nat) (c : Byte)

theorem State.key_withPixel (i : Nat) : (s.withPixel cursor draws c).key i = s.key i := rfl

theorem State.codeAt_withPixel (i : Nat) : (s.withPixel cursor draws c).codeAt i = s.codeAt i := rfl

theorem State.withPixel_eq : s.withPixel cursor draws c = { s with cursor := cursor, ent := c.setWidth 12, draws := draws } := rfl

theorem State.withPixel_allocate (slot : Slot) (fcode : Key) : (s.withPixel cursor draws c).allocate slot fcode = { s with
    cursor := cursor, ent := c.setWidth 12, freeEnt := s.freeEnt + 1#13, draws := draws
    ht := ((s.withPixel cursor draws c).allocate slot fcode).ht
    ct := ((s.withPixel cursor draws c).allocate slot fcode).ct } := rfl

end

/-- The emission of ENT is the same before and after the pixel is read. -/
theorem State.pixelTaken_emit {s : State} (ha : s.aCount.toNat ≤ 253) (hacc : s.accepts 512) :
    s.pixelTaken.emit s.pixelTaken.ent =
      .ok ((s.emitted s.ent).withRead (s.cursor + 1#32) (s.pixRead s.cursor.toNat).2.draws) := by
  rw [← State.emitted_withRead]
  exact State.emit_eq (s := s.pixelTaken) ha (State.accepts_emission ha hacc) s.ent

section
variable {s : State} {slot : Slot} (hne : s.cursor ≠ s.n) (ha : s.aCount.toNat ≤ 253) (hacc : s.accepts 512)
  (hl : s.dictLookup s.ent (s.pixRead s.cursor.toNat).1 = .miss slot)
include hne ha hacc hl

theorem exec_pixelMissInsert_of_miss : exec .pixelMissInsert s =
    .next (s.pixelEmitted.allocate slot (fcodeOf s.ent (s.pixRead s.cursor.toNat).1)) := by
  change s.withRoom s.pixelMissInsert = _
  rw [State.withRoom_of_le ha, State.pixelMissInsert, State.withLookup_of_miss hne hl,
    State.pixelTaken_emit ha hacc]
  rfl

theorem exec_pixelMissFull_of_miss : exec .pixelMissFull s = .next { s.pixelEmitted with state := stClearing } := by
  change s.withRoom s.pixelMissFull = _
  rw [State.withRoom_of_le ha, State.pixelMissFull, State.withLookup_of_miss hne hl,
    State.pixelTaken_emit ha hacc]
  rfl

end

/-! ### CLEAR_BLOCK (R157) -/

/-- The table is empty, FREE_ENT is FIRST_FREE, and the width goes back with the next emission. -/
def State.cleared (s : State) : State := { s.dictClear with freeEnt := firstFree s.clear, clearFlag := true }

theorem exec_clearBlock_eq {s : State} (ha : s.aCount.toNat ≤ 253) (hacc : s.accepts 512) :
    exec .clearBlock s = .next { s.cleared.emitted (s.clear.setWidth 12) with state := stRunning } := by
  have emits : s.cleared.emit (s.clear.setWidth 12) = .ok (s.cleared.emitted (s.clear.setWidth 12)) :=
    State.emit_eq (s := s.cleared) ha (State.accepts_emission ha hacc) _
  change s.withRoom ((s.cleared.emit (s.clear.setWidth 12)).andThen fun u => .ok { u with state := stRunning }) = _
  rw [State.withRoom_of_le ha, emits]
  rfl

/-- The width after the emission of CLEAR (R194). -/
theorem State.cleared_emitted_widths {s : State} (ha : s.aCount.toNat ≤ 253) (code : Code) :
    (s.cleared.emitted code).widths = (initWidth s.init, maxCodeOf (initWidth s.init), false) :=
  State.emitted_widths (s := s.cleared) ha code

/-! ### FINISH (R158) -/

/-- EOFC is emitted, the terminator is written, and the run is over. -/
def State.ended (s : State) : State :=
  { (s.emitted (s.eofc.setWidth 12)).afterBytes [0x00#8] with state := stDone }

theorem State.finish_eq {s t : State} (hlast : (if s.entValid then s.emit s.ent else .ok s) = .ok t) (ha : t.aCount.toNat ≤ 253)
    (h : t.accepts (t.aCount.toNat + 10)) : s.finish = .ok t.ended := by
  obtain ⟨emitted, _⟩ := State.emitted_accepted ha (t.eofc.setWidth 12)
  have left : (t.emitted (t.eofc.setWidth 12)).accepts ((t.emitted (t.eofc.setWidth 12)).aCount.toNat + 1) := emitted.accepts h
  rw [State.finish, hlast, Flow.andThen_ok, State.emit_eq ha (t.accepts_le h (by omega)), Flow.andThen_ok, State.terminatorOut,
    State.sinkWrite_accept _ _ (State.accepts_le left (by omega))]
  rfl

theorem exec_finish_of_last {s t : State} (hs : s.aCount.toNat ≤ 253)
    (hlast : (if s.entValid then s.emit s.ent else .ok s) = .ok t) (ha : t.aCount.toNat ≤ 253)
    (h : t.accepts (t.aCount.toNat + 10)) : exec .finish s = .next t.ended := by
  change s.withRoom s.finish = _
  rw [State.withRoom_of_le hs, State.finish_eq hlast ha h]
  rfl

/-- The last code, if there is one. -/
def State.lastEmitted (s : State) : State := if s.entValid then s.emitted s.ent else s

theorem State.lastEmitted_accepted {s : State} (ha : s.aCount.toNat ≤ 253) :
    Accepted 9 s s.lastEmitted ∧ s.lastEmitted.aCount.toNat ≤ 253 := by
  unfold State.lastEmitted
  split
  · exact State.emitted_accepted ha s.ent
  · exact ⟨(Accepted.of_packer rfl rfl).mono (by decide), ha⟩

theorem exec_finish_eq {s : State} (ha : s.aCount.toNat ≤ 253) (h : s.accepts 512) :
    exec .finish s = .next s.lastEmitted.ended := by
  obtain ⟨last, room⟩ := State.lastEmitted_accepted ha
  have hlast : (if s.entValid then s.emit s.ent else .ok s) = .ok s.lastEmitted := by
    unfold State.lastEmitted
    split
    · exact State.emit_eq ha (s.accepts_le h (by omega)) s.ent
    · rfl
  exact exec_finish_of_last ha hlast room (last.accepts (s.accepts_le h (by omega)))

/-- CLEAR and EOFC as codes (R24, R92). -/
theorem code_setWidth_toNat (code : BitVec 9) : (code.setWidth 12).toNat = code.toNat := by
  have := code.isLt
  rw [BitVec.toNat_setWidth]
  omega

/-- What an emission that the sink accepts has written. -/
theorem Accepted.eq {m : Nat} {s t : State} (h : Accepted m s t) : t = { s with
    nBits := t.nBits, maxCode := t.maxCode, clearFlag := t.clearFlag, acc := t.acc, bits := t.bits, aCount := t.aCount,
    bb := t.bb, sinkOut := t.sinkOut, outCount := t.outCount, sinkAnswers := t.sinkAnswers } := by
  obtain ⟨frame, draws, _⟩ := h
  cases s
  cases t
  simp only [State.emitView, State.mk.injEq] at frame draws ⊢
  tauto

end Sys2Proof.Machine

open Sys2Proof Sys2Proof.Machine

/-- Settles O20: the bits of the reasons are the checks. -/
theorem validateReportsEveryFailedCheck : Obligations.ValidateReportsEveryFailedCheck := by
  intro s
  obtain ⟨width, height, depth, buflen⟩ := s.validate_bits
  refine ⟨s.validate, rfl, ?_⟩
  simp only [width, height, depth, buflen, decide_eq_true_eq, and_self]

/-- Settles O21: the raise of InvalidInput writes REASON, ERRCODE and STATE. -/
theorem rejectedStartChangesOnlyTheErrorRegisters : Obligations.RejectedStartChangesOnlyTheErrorRegisters := fun _ => rfl

/-- Settles O25: the lookup hands on the code it found. -/
theorem pixelHitExtendsTheSequence : Obligations.PixelHitExtendsTheSequence := fun _ _ _ hne hl =>
  exec_pixelHit_of_hit hne hl

/-- Settles O26: the emission leaves FREE_ENT and the table, and does not see that the pixel was read before it. -/
theorem pixelMissInsertEmitsThenInserts : Obligations.PixelMissInsertEmitsThenInserts := by
  intro s slot hne ha hacc hl
  have emitted := (State.emitted_accepted ha s.ent).1.emits
  have freeEnt : (s.emitted s.ent).freeEnt = s.freeEnt := emitted.keeps State.freeEnt fun _ => rfl
  have key : ∀ i, s.pixelEmitted.key i = s.key i := fun i =>
    (State.key_withPixel _ _ _ _ i).trans (emitted.keeps (State.key · i) fun _ => rfl)
  have codeAt : ∀ i, s.pixelEmitted.codeAt i = s.codeAt i := fun i =>
    (State.codeAt_withPixel _ _ _ _ i).trans (emitted.keeps (State.codeAt · i) fun _ => rfl)
  have pixelFreeEnt : s.pixelEmitted.freeEnt = s.freeEnt := (congrArg State.freeEnt (State.withPixel_eq _ _ _ _)).trans freeEnt
  have hslot := (State.dictLookup_miss_slot hl).1
  refine ⟨_, _, exec_emit_eq ha (State.accepts_emission ha hacc) s.ent, exec_pixelMissInsert_of_miss hne ha hacc hl,
    emitted.keeps State.state fun _ => rfl, emitted.keeps State.stuck fun _ => rfl, fun i => ?_, fun i => ?_, ?_⟩
  · simp only [State.key_allocate hslot, key, eq_comm]
  · simp only [State.codeAt_allocate hslot, codeAt, pixelFreeEnt, eq_comm]
  · rw [← freeEnt]
    exact State.withPixel_allocate (s.emitted s.ent) _ _ _ slot _

/-- Settles O27: the emission leaves FREE_ENT, and does not see that the pixel was read before it. -/
theorem pixelMissFullEmitsThenClears : Obligations.PixelMissFullEmitsThenClears := by
  intro s slot hne ha hacc hl
  have emitted := (State.emitted_accepted ha s.ent).1.emits
  refine ⟨_, exec_emit_eq ha (State.accepts_emission ha hacc) s.ent, emitted.keeps State.state fun _ => rfl,
    emitted.keeps State.stuck fun _ => rfl, emitted.keeps State.freeEnt fun _ => rfl, ?_⟩
  rw [exec_pixelMissFull_of_miss hne ha hacc hl, State.pixelEmitted, State.withPixel_eq]

/-- Settles O28: the emission of CLEAR sees CLEAR_FLAG set and the table emptied, and leaves the table. -/
theorem clearBlockRestartsTheDictionary : Obligations.ClearBlockRestartsTheDictionary := by
  intro s ha hinit hacc
  have emitted := (State.emitted_accepted (s := s.cleared) ha (s.clear.setWidth 12)).1.emits
  have widths := State.cleared_emitted_widths ha (s.clear.setWidth 12)
  simp only [State.widths, Prod.mk.injEq] at widths
  obtain ⟨nBits, maxCode, clearFlag⟩ := widths
  have width := initWidth_toNat hinit
  have kept : ∀ {α : Type} (f : State → α), (∀ u : State, f u.emitView = f u) →
      f (s.cleared.emitted (s.clear.setWidth 12)) = f s.cleared := fun f hf => emitted.keeps f hf
  refine ⟨s.cleared.emitted (s.clear.setWidth 12), _, exec_emit_eq (s := s.cleared) ha (State.accepts_emission ha hacc) _,
    kept State.state fun _ => rfl, kept State.stuck fun _ => rfl, exec_clearBlock_eq ha hacc, rfl, fun i => ?_, ?_, ?_, ?_, clearFlag,
    kept State.ent fun _ => rfl, kept State.entValid fun _ => rfl, kept State.cursor fun _ => rfl,
    fun i => kept (State.codeAt · i) fun _ => rfl⟩
  · exact (kept (State.key · i) fun _ => rfl).trans (s.key_dictClear i)
  · have := s.clear.isLt
    dsimp only
    rw [kept State.freeEnt fun _ => rfl]
    change (BitVec.ofNat 13 (s.clear.toNat + 2)).toNat = _
    rw [BitVec.toNat_ofNat]
    omega
  · exact (congrArg BitVec.toNat nBits).trans width
  · dsimp only
    rw [maxCode, maxCodeOf_toNat (by omega), width]

/-- Settles O29: after the last code the emission of EOFC leaves nothing pending. -/
theorem finishEndsTheOutput : Obligations.FinishEndsTheOutput := by
  intro s ha hacc
  obtain ⟨last, room⟩ := State.lastEmitted_accepted ha
  have eofc : s.lastEmitted.eofc = s.eofc := last.emits.keeps State.eofc fun _ => rfl
  obtain ⟨hacc0, hbits0, hcount0⟩ := State.emitted_eof room (code_setWidth_toNat s.lastEmitted.eofc)
  have whole := last.trans (State.emitted_accepted room (s.lastEmitted.eofc.setWidth 12)).1
  obtain ⟨bs, out, answers, _⟩ := whole.bytes
  have left : s.lastEmitted.accepts (s.lastEmitted.aCount.toNat + 9) := last.accepts (s.accepts_le hacc (by omega))
  have flag : (s.lastEmitted.emitted (s.lastEmitted.eofc.setWidth 12)).clearFlag = false := by
    have widths := State.emitted_widths room (s.lastEmitted.eofc.setWidth 12)
    exact (congrArg (·.2.2) widths).trans (State.updateWidth_clearFlag _)
  refine ⟨s.lastEmitted, s.lastEmitted.emitted (s.lastEmitted.eofc.setWidth 12), s.lastEmitted.ended, bs, ?_, ?_,
    exec_finish_eq ha hacc, rfl, hacc0, hbits0, hcount0, flag, ?_, ?_, ?_, ?_⟩
  · unfold State.lastEmitted
    split
    · exact exec_emit_eq ha (State.accepts_emission ha hacc) s.ent
    · rfl
  · rw [← eofc]
    exact exec_emit_eq room left _
  · exact congrArg (· ++ [0x00#8]) out.sinkOut_eq
  · exact (congrArg (· + 1#32) out.outCount_eq).trans (by rw [BitVec.ofNat_add, BitVec.add_assoc])
  · exact (congrArg (List.drop 1) answers).trans (by rw [List.drop_drop])
  · exact congrArg (fun u : State => { u.afterBytes [0x00#8] with state := stDone }) whole.eq
end

section
/-! PROOFS. EMIT while the block does not fill (44_bit_packer.md rules R190 to R192, R195; 45_block_writer.md rules R210, R211): the bytes
that join the block, for which the sink is not asked, and the one sub-block that the flush at EOFC writes. -/

namespace Sys2Proof.Machine

theorem lowBytes_add (v j k : Nat) : lowBytes v (j + k) = lowBytes v j ++ lowBytes (v / 256 ^ j) k := by
  simp only [lowBytes, List.range_add, List.map_append, List.map_map]
  congr 1
  refine List.map_congr_left fun i _ => ?_
  simp only [Function.comp_apply, Nat.div_div_eq_div_mul, Nat.pow_add]

@[simp] theorem lowBytes_one (v : Nat) : lowBytes v 1 = [BitVec.ofNat 8 v] := by simp [lowBytes]

@[simp] theorem lowBytes_length (v k : Nat) : (lowBytes v k).length = k := by simp [lowBytes]

/-! ### A byte joins the block -/

theorem State.blockByte_pushByte {s : State} (h : s.aCount.toNat ≤ 253) (b : Byte) (j : Nat) :
    (s.pushByte b).blockByte j = if s.aCount.toNat = j then b else s.blockByte j := by
  unfold State.blockByte
  by_cases hj : j < Config.blockMax
  · simp only [hj, dite_true, State.pushByte_bb, getElem_putAt]
  · simp only [hj, dite_false]
    rw [if_neg (by simp only [Config.blockMax] at hj; omega)]

theorem State.pendingBytes_pushByte {s : State} (h : s.aCount.toNat ≤ 253) (b : Byte) :
    (s.pushByte b).pendingBytes = s.pendingBytes ++ [b] := by
  have old : ∀ j ∈ List.range s.aCount.toNat, (s.pushByte b).blockByte j = s.blockByte j := fun j hj => by
    rw [State.blockByte_pushByte h, if_neg (List.mem_range.1 hj).ne']
  rw [State.pendingBytes, State.pushByte_aCount_toNat h, List.range_succ, List.map_append, List.map_congr_left old,
    List.map_singleton, State.blockByte_pushByte h, if_pos rfl, State.pendingBytes]

theorem State.fed_of_room {s : State} (h : s.aCount.toNat < 253) (b : Byte) : s.fed b = s.pushByte b :=
  if_neg (by rw [State.pushByte_aCount_toNat h.le]; simp only [Config.blockMax]; omega)

theorem State.byteOut_of_room {s : State} (h : s.aCount.toNat < 253) (b : Byte) : s.byteOut b = .ok (s.pushByte b) :=
  if_neg (by rw [State.pushByte_aCount_toNat h.le]; simp only [Config.blockMax]; omega)

/-! ### Complete bytes leave the accumulator -/

/-- From s to t the k low bytes of the accumulator have joined the block; the bits above them are still held. -/
structure Packs (k : Nat) (s t : State) : Prop where
  pendingBytes_eq : t.pendingBytes = s.pendingBytes ++ lowBytes s.acc.toNat k
  acc_eq : t.acc.toNat = s.acc.toNat / 256 ^ k
  bits_eq : t.bits.toNat = s.bits.toNat - 8 * k
  blockByte_eq : ∀ j, s.aCount.toNat + k ≤ j → t.blockByte j = s.blockByte j
  frame : t = { s with acc := t.acc, bits := t.bits, aCount := t.aCount, bb := t.bb }

theorem Packs.refl (s : State) : Packs 0 s s := ⟨by simp [lowBytes], by simp, rfl, fun _ _ => rfl, rfl⟩

theorem Packs.aCount_eq {k : Nat} {s t : State} (h : Packs k s t) : t.aCount.toNat = s.aCount.toNat + k := by
  have lengths := congrArg List.length h.pendingBytes_eq
  rwa [List.length_append, State.pendingBytes_length, State.pendingBytes_length, lowBytes_length] at lengths

theorem Packs.trans {j k : Nat} {s t u : State} (h1 : Packs j s t) (h2 : Packs k t u) : Packs (j + k) s u := by
  have count := h1.aCount_eq
  refine ⟨?_, ?_, ?_, fun i hi => ?_, ?_⟩
  · rw [h2.pendingBytes_eq, h1.pendingBytes_eq, h1.acc_eq, lowBytes_add, List.append_assoc]
  · rw [h2.acc_eq, h1.acc_eq, Nat.div_div_eq_div_mul, Nat.pow_add]
  · rw [h2.bits_eq, h1.bits_eq]
    omega
  · rw [h2.blockByte_eq i (by omega), h1.blockByte_eq i (by omega)]
  · have frame := h2.frame
    rw [h1.frame] at frame
    exact frame

theorem State.dropByte_pushByte_packs {s : State} (hroom : s.aCount.toNat < 253) (hbits : 8 ≤ s.bits.toNat) :
    Packs 1 s (s.pushByte (s.acc.setWidth 8)).dropByte := by
  have hle : 8#5 ≤ s.bits := BitVec.le_def.2 (by simpa only [BitVec.toNat_ofNat] using hbits)
  refine ⟨?_, ?_, ?_, fun j hj => ?_, rfl⟩
  · rw [lowBytes_one, BitVec.ofNat_toNat]
    exact State.pendingBytes_pushByte hroom.le _
  · rw [State.dropByte_acc, State.pushByte_acc, BitVec.toNat_ushiftRight, Nat.shiftRight_eq_div_pow, Nat.pow_one]
  · rw [State.dropByte_bits, State.pushByte_bits, BitVec.toNat_sub_of_le hle]
    rfl
  · exact (State.blockByte_pushByte hroom.le _ j).trans (if_neg (by omega))

theorem State.drained_packs (k : Nat) {s : State} (hroom : s.aCount.toNat + k ≤ 253) (hbits : 8 * k ≤ s.bits.toNat) :
    s.drain k = .ok (s.drained k) ∧ Packs k s (s.drained k) := by
  induction k generalizing s with
  | zero => exact ⟨rfl, .refl s⟩
  | succ k ih =>
    have one := State.dropByte_pushByte_packs (s := s) (by omega) (by omega)
    obtain ⟨goesOn, rest⟩ := ih (s := (s.pushByte (s.acc.setWidth 8)).dropByte) (by rw [one.aCount_eq]; omega)
      (by rw [one.bits_eq]; omega)
    rw [State.drain, State.byteOut_of_room (by omega), Flow.andThen_ok, State.drained, State.fed_of_room (by omega)]
    exact ⟨goesOn, Nat.add_comm 1 k ▸ one.trans rest⟩

/-! ### EMIT -/

theorem State.updateWidth_eq (s : State) : s.updateWidth = { s with
    nBits := s.updateWidth.nBits, maxCode := s.updateWidth.maxCode, clearFlag := s.updateWidth.clearFlag } := by
  unfold State.updateWidth
  split_ifs <;> rfl

/-- From s to t the code has been appended, and its complete bytes have joined the block (R191, R192). -/
structure PacksCode (code : Code) (s t : State) : Prop where
  pendingBytes_eq : t.pendingBytes = s.pendingBytes ++ lowBytes (s.packedValue code) ((s.bits.toNat + s.nBits.toNat) / 8)
  acc_eq : t.acc.toNat = s.packedValue code / 256 ^ ((s.bits.toNat + s.nBits.toNat) / 8)
  bits_eq : t.bits.toNat = (s.bits.toNat + s.nBits.toNat) % 8
  aCount_eq : t.aCount.toNat = s.aCount.toNat + (s.bits.toNat + s.nBits.toNat) / 8
  blockByte_eq : ∀ j, s.aCount.toNat + (s.bits.toNat + s.nBits.toNat) / 8 ≤ j → t.blockByte j = s.blockByte j
  frame : t = { s with
    nBits := t.nBits, maxCode := t.maxCode, clearFlag := t.clearFlag, acc := t.acc, bits := t.bits, aCount := t.aCount, bb := t.bb }

section
variable {s : State} (hp : s.packed) (hroom : s.aCount.toNat + (s.bits.toNat + s.nBits.toNat) / 8 ≤ 253) (code : Code)
include hp hroom

theorem State.appendCode_drained_packs :
    (s.appendCode code).drain ((s.appendCode code).bits.toNat / 8) =
        .ok ((s.appendCode code).drained ((s.appendCode code).bits.toNat / 8)) ∧
      Packs ((s.bits.toNat + s.nBits.toNat) / 8) (s.appendCode code)
        ((s.appendCode code).drained ((s.appendCode code).bits.toNat / 8)) := by
  have held := State.appendCode_bits_toNat s code hp
  rw [held]
  exact State.drained_packs (s := s.appendCode code) _ hroom (by omega)

theorem State.packedUp_packsCode : PacksCode code s (s.packedUp code) := by
  have packs := (State.appendCode_drained_packs hp hroom code).2
  have held := State.appendCode_bits_toNat s code hp
  have value := State.appendCode_acc_toNat s code hp
  have width := State.updateWidth_eq ((s.appendCode code).drained ((s.appendCode code).bits.toNat / 8))
  unfold State.packedUp
  generalize (s.appendCode code).drained ((s.appendCode code).bits.toNat / 8) = u at packs width
  rw [width]
  refine ⟨value ▸ packs.pendingBytes_eq, value ▸ packs.acc_eq, packs.bits_eq.trans (by omega), packs.aCount_eq,
    packs.blockByte_eq, ?_⟩
  exact congrArg (fun v : State => { v with
    nBits := u.updateWidth.nBits, maxCode := u.updateWidth.maxCode, clearFlag := u.updateWidth.clearFlag }) packs.frame

theorem State.emit_of_room (hcode : code.toNat ≠ s.eofc.toNat) : s.emit code = .ok (s.packedUp code) := by
  have eofc : (s.packedUp code).eofc = s.eofc := (congrArg State.eofc (State.packedUp_packsCode hp hroom code).frame :)
  unfold State.emit
  dsimp only
  rw [(State.appendCode_drained_packs hp hroom code).1, Flow.andThen_ok, ← State.packedUp, if_neg (by rwa [eofc])]

end

theorem State.flushed_sinkOut {s : State} (h : s.pendingBytes ≠ []) :
    s.flushed.sinkOut = s.sinkOut ++ BitVec.ofNat 8 s.pendingBytes.length :: s.pendingBytes := by
  have hpos : 0 < s.aCount.toNat := by rw [← s.pendingBytes_length]; exact List.length_pos_of_ne_nil h
  rw [State.flushed, if_pos hpos, State.pendingBytes_length, BitVec.ofNat_toNat, BitVec.setWidth_eq]
  rfl

/-- The partial byte is zero-padded, so that the bytes of the flush are the low bytes of the value held, rounded up (R195). -/
theorem State.eofFlushed_sinkOut {s : State} (hbits : s.bits.toNat ≤ 7) (hroom : s.aCount.toNat < 253)
    (hne : s.pendingBytes ++ lowBytes s.acc.toNat ((s.bits.toNat + 7) / 8) ≠ []) :
    s.eofFlushed.sinkOut = s.sinkOut ++
      BitVec.ofNat 8 (s.pendingBytes ++ lowBytes s.acc.toNat ((s.bits.toNat + 7) / 8)).length ::
        (s.pendingBytes ++ lowBytes s.acc.toNat ((s.bits.toNat + 7) / 8)) := by
  have pending : (if 0 < s.bits.toNat then s.fed (s.acc.setWidth 8) else s).clearAcc.pendingBytes =
      s.pendingBytes ++ lowBytes s.acc.toNat ((s.bits.toNat + 7) / 8) := by
    split
    case isTrue hpos =>
      rw [show (s.bits.toNat + 7) / 8 = 1 by omega, lowBytes_one, BitVec.ofNat_toNat, State.fed_of_room hroom]
      exact State.pendingBytes_pushByte hroom.le _
    case isFalse hzero =>
      rw [show (s.bits.toNat + 7) / 8 = 0 by omega]
      exact (List.append_nil _).symm
  have sinkOut : (if 0 < s.bits.toNat then s.fed (s.acc.setWidth 8) else s).clearAcc.sinkOut = s.sinkOut := by
    split
    · rw [State.fed_of_room hroom]
      rfl
    · rfl
  rw [← pending] at hne ⊢
  rw [← sinkOut]
  exact State.flushed_sinkOut hne

/-- EMIT of EOFC (R190, R195): the block and the bits held go out as one sub-block. -/
theorem State.emitted_eof_sinkOut {s : State} {code : Code} (hp : s.packed) (hn : 0 < s.nBits.toNat)
    (hcode : code.toNat = s.eofc.toNat) (hroom : s.aCount.toNat + (s.bits.toNat + s.nBits.toNat) / 8 < 253) {data : List Byte}
    (hdata : s.pendingBytes ++ lowBytes (s.packedValue code) ((s.bits.toNat + s.nBits.toNat + 7) / 8) = data) :
    (s.emitted code).sinkOut = s.sinkOut ++ BitVec.ofNat 8 data.length :: data := by
  have packs := State.packedUp_packsCode hp hroom.le code
  have bits := packs.bits_eq
  have eofc : (s.packedUp code).eofc = s.eofc := (congrArg State.eofc packs.frame :)
  have sinkOut : (s.packedUp code).sinkOut = s.sinkOut := (congrArg State.sinkOut packs.frame :)
  have whole : (s.packedUp code).pendingBytes ++
      lowBytes (s.packedUp code).acc.toNat (((s.packedUp code).bits.toNat + 7) / 8) = data := by
    rw [← hdata, packs.pendingBytes_eq, packs.acc_eq, bits, List.append_assoc, ← lowBytes_add]
    congr 2
    omega
  have hne : data ≠ [] := by
    rw [← hdata]
    refine List.append_ne_nil_of_right_ne_nil _ (List.ne_nil_of_length_pos ?_)
    rw [lowBytes_length]
    omega
  rw [State.emitted, if_pos (by rw [eofc, hcode]), State.eofFlushed_sinkOut (by omega) (by rw [packs.aCount_eq]; exact hroom)
    (by rwa [whole]), whole, sinkOut]

end Sys2Proof.Machine
end

section
/-! PROOFS. START_OK (43_driver.md rules R153, R160): the state in which the first emission is made, what the emission of CLEAR leaves,
and a run without a pixel. -/

namespace Sys2Proof.Machine

/-! ### The run begins -/

theorem State.sinkWrite_fail {s : State} {rest : List SinkAnswer} (h : s.sinkAnswers = .fail :: rest) (b : Byte) :
    s.sinkWrite b = .raised { s with sinkAnswers := rest } := by
  unfold State.sinkWrite State.takeAnswer
  rw [h]

theorem pixelCount_toNat (w h : BitVec 16) : (pixelCount w h).toNat = w.toNat * h.toNat := by
  have : w.toNat * h.toNat < 2 ^ 16 * 2 ^ 16 := Nat.mul_lt_mul'' w.isLt h.isLt
  rw [pixelCount, BitVec.toNat_ofNat]
  omega

/-- A read of PIX depends on PIX, on the addresses noted, and on how many free values were drawn (R71, R75). -/
theorem State.pixRead_congr {s t : State} (h : (t.pix, t.pixDirty, t.draws) = (s.pix, s.pixDirty, s.draws)) (a : Nat) :
    (t.pixRead a).1 = (s.pixRead a).1 ∧ (t.pixRead a).2.draws = (s.pixRead a).2.draws := by
  simp only [Prod.mk.injEq] at h
  obtain ⟨hpix, hdirty, hdraws⟩ := h
  unfold State.pixRead
  rw [hpix, hdirty, hdraws]
  split_ifs
  · exact ⟨rfl, rfl⟩
  · exact ⟨rfl, hdraws⟩

/-- The header byte has been accepted, and the registers of the run are set. -/
def State.opened (s : State) : State := (s.startRun.afterBytes [s.startRun.init.setWidth 8]).freshRun

/-- The state with CURSOR, ENT, ENT_VALID and the number of free values drawn as the first pixel gives them. -/
def State.withFirst (s : State) (cursor : Word) (ent : Code) (entValid : Bool) (draws : Nat) : State :=
  { s with cursor := cursor, ent := ent, entValid := entValid, draws := draws }

/-- With a pixel the first one is ENT. -/
theorem State.opened_firstPixel {s : State} (hw : s.lWidth.toNat ≠ 0) (hh : s.lHeight.toNat ≠ 0) :
    s.opened.firstPixel = s.opened.withFirst 1#32 ((s.pixRead 0).1.setWidth 12) true (s.pixRead 0).2.draws := by
  have hne : s.opened.cursor ≠ s.opened.n := fun he =>
    Nat.mul_ne_zero hw hh ((pixelCount_toNat s.lWidth s.lHeight).symm.trans (congrArg BitVec.toNat he).symm)
  obtain ⟨pixel, draws⟩ := s.pixRead_congr (t := s.opened) rfl 0
  rw [State.firstPixel, State.nextPixel_of_ne hne, ← pixel, ← draws]
  rfl

/-- Without a pixel ENT is not valid (R160). -/
theorem State.opened_firstPixel_of_empty {s : State} (h : s.lWidth.toNat = 0 ∨ s.lHeight.toNat = 0) :
    s.opened.firstPixel = s.opened.withFirst 0#32 0#12 false s.draws := by
  have heos : s.opened.cursor = s.opened.n :=
    BitVec.eq_of_toNat_eq ((Nat.mul_eq_zero.2 h).symm.trans (pixelCount_toNat s.lWidth s.lHeight).symm)
  rw [State.firstPixel, State.nextPixel, if_pos heos]
  rfl

/-! ### The emission of CLEAR -/

/-- The registers of a run of INIT = I before its first emission (R24, R153). -/
structure State.Fresh (I : Nat) (s : State) : Prop where
  range : 2 ≤ I ∧ I ≤ 8
  init_eq : s.init.toNat = I
  clear_eq : s.clear.toNat = 2 ^ I
  eofc_eq : s.eofc.toNat = 2 ^ I + 1
  nBits_eq : s.nBits.toNat = I + 1
  maxCode_eq : s.maxCode.toNat = 2 ^ (I + 1) - 1
  freeEnt_eq : s.freeEnt.toNat = 2 ^ I + 2
  clearFlag_eq : s.clearFlag = false
  acc_eq : s.acc = 0#19
  bits_eq : s.bits = 0#5
  aCount_eq : s.aCount = 0#8

theorem State.opened_fresh {s : State} (h : s.lDepth.toNat ≤ 8) : s.opened.Fresh (max 2 s.lDepth.toNat) := by
  obtain ⟨_, clear, eofc⟩ := State.startRun_constantsOk h
  have init := runInit_toNat h
  rw [State.startRun_init, init] at clear
  rw [clear] at eofc
  have width : (initWidth (runInit s.lDepth)).toNat = max 2 s.lDepth.toNat + 1 := by rw [initWidth_toNat (by omega), init]
  have pow : 2 ^ max 2 s.lDepth.toNat ≤ 2 ^ 8 := Nat.pow_le_pow_right (by decide) (by omega)
  have maxCode := maxCodeOf_toNat (nBits := initWidth (runInit s.lDepth)) (by omega)
  have freeEnt := firstFree_toNat (clear := s.startRun.clear) (by omega)
  rw [width] at maxCode
  rw [clear] at freeEnt
  exact
    { range := by omega
      init_eq := init
      clear_eq := clear
      eofc_eq := eofc
      nBits_eq := width
      maxCode_eq := maxCode
      freeEnt_eq := freeEnt
      clearFlag_eq := rfl
      acc_eq := rfl
      bits_eq := rfl
      aCount_eq := rfl }

/-- From s to t CLEAR has been emitted at the first width, and no byte has reached the sink. -/
structure EmitsClear (I : Nat) (s t : State) : Prop where
  acc_eq : t.acc.toNat = 2 ^ I / 256 ^ ((I + 1) / 8)
  bits_eq : t.bits.toNat = (I + 1) % 8
  aCount_eq : t.aCount.toNat = (I + 1) / 8
  pendingBytes_eq : t.pendingBytes = lowBytes (2 ^ I) ((I + 1) / 8)
  blockByte_eq : ∀ j, (I + 1) / 8 ≤ j → t.blockByte j = s.blockByte j
  widths_eq : t.widths = s.widths
  frame : t = { s with
    state := t.state, nBits := t.nBits, maxCode := t.maxCode, clearFlag := t.clearFlag, acc := t.acc, bits := t.bits,
    aCount := t.aCount, bb := t.bb }

/-- The first emission starts with nothing pending, and FREE_ENT fits the width (R36). -/
theorem State.Fresh.emit_clear {I : Nat} {s : State} (h : s.Fresh I) :
    s.emit (s.clear.setWidth 12) = .ok (s.packedUp (s.clear.setWidth 12)) ∧
      EmitsClear I s (s.packedUp (s.clear.setWidth 12)) := by
  obtain ⟨hI2, hI8⟩ := h.range
  have acc : s.acc.toNat = 0 := congrArg BitVec.toNat h.acc_eq
  have bits : s.bits.toNat = 0 := congrArg BitVec.toNat h.bits_eq
  have aCount : s.aCount.toNat = 0 := congrArg BitVec.toNat h.aCount_eq
  have nBits := h.nBits_eq
  have code := (code_setWidth_toNat s.clear).trans h.clear_eq
  have packed : s.packed := ⟨by omega, by rw [acc]; exact Nat.two_pow_pos _, by omega⟩
  have room : s.aCount.toNat + (s.bits.toNat + s.nBits.toNat) / 8 ≤ 253 := by omega
  have value : s.packedValue (s.clear.setWidth 12) = 2 ^ I := by
    rw [State.packedValue, acc, bits, code, nBits, Nat.mod_eq_of_lt (Nat.pow_lt_pow_right (by decide) (Nat.lt_succ_self I))]
    omega
  have unchanged : s.updateWidth = s := by
    have fits := firstFree_le_maxCode hI2 rfl
    rw [State.updateWidth, h.clearFlag_eq, h.maxCode_eq, h.freeEnt_eq, if_neg nofun, if_neg (by omega)]
  have pending : s.pendingBytes = [] := List.eq_nil_of_length_eq_zero (s.pendingBytes_length.trans aCount)
  have packs := State.packedUp_packsCode packed room (s.clear.setWidth 12)
  obtain ⟨hpending, hacc, hbits, hcount, hblock, hframe⟩ := packs
  rw [value, bits, nBits, Nat.zero_add] at hpending hacc
  rw [bits, nBits, Nat.zero_add] at hbits hcount hblock
  rw [aCount, Nat.zero_add] at hcount hblock
  exact ⟨State.emit_of_room packed room _ (by rw [code, h.eofc_eq]; omega),
    { acc_eq := hacc
      bits_eq := hbits
      aCount_eq := hcount
      pendingBytes_eq := by rw [hpending, pending, List.nil_append]
      blockByte_eq := hblock
      widths_eq := (State.packedUp_widths (by omega) _).trans (by rw [unchanged])
      frame := hframe.trans (by rw [hframe]) }⟩

/-- START_OK has begun the run. -/
def State.begun (s : State) : State :=
  { s.opened.firstPixel.packedUp (s.opened.firstPixel.clear.setWidth 12) with state := stRunning }

theorem State.opened_firstPixel_fresh {s : State} (h : s.lDepth.toNat ≤ 8) :
    s.opened.firstPixel.Fresh (max 2 s.lDepth.toNat) := by
  have opened := State.opened_fresh h
  rcases s.opened.nextPixel_cases with ⟨_, hn⟩ | ⟨_, c, d, _, hn⟩ <;> rw [State.firstPixel, hn]
  · exact { opened with }
  · exact { opened with }

theorem State.begun_emitsClear {s : State} (h : s.lDepth.toNat ≤ 8) :
    EmitsClear (max 2 s.lDepth.toNat) s.opened.firstPixel s.begun := by
  have emits := (State.opened_firstPixel_fresh h).emit_clear.2
  exact { emits with frame := congrArg (fun u : State => { u with state := stRunning }) emits.frame }

/-- START_OK (R153) where the sink accepts the header. -/
theorem exec_startOk_eq {s : State} (h : s.lDepth.toNat ≤ 8) (hacc : s.accepts 1) : exec .startOk s = .next s.begun := by
  have header : s.startRun.headerOut s.startRun.init = .ok (s.startRun.afterBytes [s.startRun.init.setWidth 8]) :=
    State.sinkWrite_accept s.startRun _ hacc
  have first : s.opened.firstPixel.emit (s.opened.firstPixel.clear.setWidth 12) = .ok _ :=
    (State.opened_firstPixel_fresh h).emit_clear.1
  change Host.Outcome.next (s.startOk.settle s) = _
  rw [State.startOk, header, Flow.andThen_ok, ← State.opened]
  dsimp only
  rw [first]
  rfl

/-- The header byte is INIT (R212). -/
theorem State.opened_sinkOut {s : State} (h : s.lDepth.toNat ≤ 8) :
    s.opened.sinkOut = s.sinkOut ++ [BitVec.ofNat 8 (max 2 s.lDepth.toNat)] := by
  have header : (runInit s.lDepth).setWidth 8 = BitVec.ofNat 8 (max 2 s.lDepth.toNat) := by
    rw [← runInit_toNat h, BitVec.ofNat_toNat]
  exact congrArg (fun b : Byte => s.sinkOut ++ [b]) header

end Sys2Proof.Machine

open Sys2Proof Sys2Proof.Machine

/-- Settles O22: nothing is pending when CLEAR is emitted, and its at most 9 bits do not fill the block. -/
theorem startOkBeginsAFreshRun : Obligations.StartOkBeginsAFreshRun := by
  intro s hw hh _ hdepth hacc
  have fresh := State.opened_fresh hdepth
  obtain ⟨acc, bits, _, pending, block, widths, frame⟩ := State.begun_emitsClear hdepth
  rw [State.opened_firstPixel hw hh] at block widths frame
  simp only [State.widths, Prod.mk.injEq] at widths
  obtain ⟨nBits, maxCode, clearFlag⟩ := widths
  have pixel : ((s.pixRead 0).1.setWidth 12 : Code).toNat = (s.pixRead 0).1.toNat := by
    rw [BitVec.toNat_setWidth]
    omega
  refine ⟨s.begun, exec_startOk_eq hdepth hacc, ?_⟩
  rw [frame]
  exact ⟨⟨rfl, rfl, rfl, rfl, pixelCount_toNat _ _, fresh.init_eq, fresh.clear_eq, fresh.eofc_eq,
    (congrArg BitVec.toNat nBits).trans fresh.nBits_eq, (congrArg BitVec.toNat maxCode).trans fresh.maxCode_eq, fresh.freeEnt_eq,
    clearFlag, rfl, pixel, rfl, acc, bits, pending, block, fun i => s.key_dictClear i,
    State.opened_sinkOut hdepth, rfl, rfl, rfl⟩, rfl⟩

/-- Settles O23: the header byte is offered after the constants of the run are set. -/
theorem startOkWhoseHeaderFails : Obligations.StartOkWhoseHeaderFails := by
  intro s rest hfail _ hdepth
  have failed : exec .startOk s = .next (({ s.startRun with sinkAnswers := rest } : State).raise .sinkFailure) := by
    change Host.Outcome.next (s.startOk.settle s) = _
    rw [State.startOk, State.headerOut, State.sinkWrite_fail (s := s.startRun) hfail]
    rfl
  obtain ⟨_, clear, eofc⟩ := State.startRun_constantsOk hdepth
  exact ⟨_, failed, rfl, rfl, rfl, rfl, rfl, rfl, rfl, runInit_toNat hdepth, clear, eofc, pixelCount_toNat _ _, rfl, rfl, rfl,
    rfl, rfl, rfl, rfl, rfl, fun _ => rfl⟩

/-- The bytes of CLEAR and EOFC, packed one after the other, are those of the number that holds both. -/
theorem clearThenEof_lowBytes : ∀ I < 9, 2 ≤ I →
    lowBytes (2 ^ I) ((I + 1) / 8) ++ lowBytes (2 ^ I / 256 ^ ((I + 1) / 8) + (2 ^ I + 1) % 2 ^ (I + 1) * 2 ^ ((I + 1) % 8))
        (((I + 1) % 8 + (I + 1) + 7) / 8) =
      lowBytes (2 ^ I + (2 ^ I + 1) * 2 ^ (I + 1)) ((2 * (I + 1) + 7) / 8) := by
  decide

/-- The bits of CLEAR that stay held are those above its complete bytes. -/
theorem clear_held_lt : ∀ I < 9, 2 ≤ I → 2 ^ I / 256 ^ ((I + 1) / 8) < 2 ^ ((I + 1) % 8) := by
  decide

/-- Settles O24: ENT is not valid, so EOFC joins the bits of CLEAR in a block that nothing else is in. -/
theorem emptyStreamIsClearThenEof : Obligations.EmptyStreamIsClearThenEof := by
  intro s hempty _ hdepth hacc
  have fresh := State.opened_fresh hdepth
  have emits := State.begun_emitsClear hdepth
  have header := State.opened_sinkOut hdepth
  have started := exec_startOk_eq hdepth (s.accepts_le hacc (by decide))
  rw [State.opened_firstPixel_of_empty hempty] at emits
  generalize max 2 s.lDepth.toNat = I at fresh emits header ⊢
  obtain ⟨hI2, hI8⟩ := fresh.range
  obtain ⟨acc, bits, aCount, pending, _, widths, frame⟩ := emits
  have nBits : s.begun.nBits.toNat = I + 1 := (congrArg (·.1.toNat) widths).trans fresh.nBits_eq
  have eofc : s.begun.eofc.toNat = 2 ^ I + 1 := (congrArg (·.eofc.toNat) frame).trans fresh.eofc_eq
  have entValid : s.begun.entValid = false := (congrArg State.entValid frame :)
  have answers : s.begun.sinkAnswers = s.sinkAnswers.drop 1 := (congrArg State.sinkAnswers frame :)
  have sinkOut : s.begun.sinkOut = s.sinkOut ++ [BitVec.ofNat 8 I] := (congrArg State.sinkOut frame).trans header
  have code := code_setWidth_toNat s.begun.eofc
  have packed : s.begun.packed := ⟨by omega, by rw [acc, bits]; exact clear_held_lt I (by omega) hI2, by omega⟩
  have data : s.begun.pendingBytes ++ lowBytes (s.begun.packedValue (s.begun.eofc.setWidth 12))
      ((s.begun.bits.toNat + s.begun.nBits.toNat + 7) / 8) =
      lowBytes (2 ^ I + (2 ^ I + 1) * 2 ^ (I + 1)) ((2 * (I + 1) + 7) / 8) := by
    rw [pending, State.packedValue, acc, code, eofc, nBits, bits]
    exact clearThenEof_lowBytes I (by omega) hI2
  have flushed := State.emitted_eof_sinkOut packed (by omega) code (by omega) data
  refine ⟨s.begun, s.begun.ended, started, exec_finish_of_last (by omega) (by rw [entValid]; rfl) (by omega)
    (State.accepts_of_drop hacc answers (by omega)), entValid, rfl, ?_⟩
  change (s.begun.emitted (s.begun.eofc.setWidth 12)).sinkOut ++ [0x00#8] = _
  rw [flushed, sinkOut, List.append_assoc s.sinkOut]
  rfl
end

section
/-! PROOFS. The Encoder Driver's control (43_driver.md rules R150, R159, R161, R163): the engine's turn, how STATE changes in a step, and
the run that comes to its end. -/

namespace Sys2Proof.Machine

/-! ### The engine's turn (R150, R159) -/

theorem State.fetch_engineTurn {s t : State}
    (h : s.inputs = [] ∧ t = s ∨ ∃ rest, s.inputs = .engine :: rest ∧ t = s.withInputs rest) : s.fetch = t.engineTurn := by
  rcases h with ⟨hin, rfl⟩ | ⟨rest, hin, rfl⟩ <;> rw [State.fetch, hin]

/-- HIT is looked up in RUNNING only (R99). -/
theorem State.hit_of_not_running {s : State} (h : s.state ≠ stRunning) : s.hit = some false := if_neg fun ⟨hrun, _⟩ => h hrun

theorem State.dispatchVector_of_hit {s : State} {hit : Bool} (h : s.hit = some hit) :
    s.dispatchVector = some (packDispatch s.cfgOk s.full hit s.eos s.startReq s.state) := by
  rw [State.dispatchVector, h, Option.map_some]

/-- IDLE, DONE and ERROR without a START (R159). -/
theorem State.engineTurn_of_quiescent {s : State} (he : s.errCode.toNat ≤ 2) (hq : s.startReq = false)
    (hst : s.state = stIdle ∨ s.state = stDone ∨ s.state = stError) : s.engineTurn = .move s := by
  have quiet : s.state.toNat ≤ 4 ∧ s.state ≠ stRunning ∧ s.state ≠ stClearing := by
    rcases hst with h | h | h <;> rw [h] <;> decide
  obtain ⟨hlegal, hrun, hclear⟩ := quiet
  cases hs : s.stuck with
  | some w => rw [State.engineTurn, hs]
  | none =>
    refine State.engineTurn_of_noStep hs he (State.dispatchVector_of_hit (State.hit_of_not_running hrun)) ?_
    rw [decodeDispatch_packDispatch, hq, if_neg (by simp; omega), if_neg nofun, if_neg hrun, if_neg hclear]

/-! ### How STATE changes (R161) -/

/-- However an operation ends: as its actions left it, as before it, or in ERROR (R244, log 5). -/
theorem Flow.settle_state {r : Flow} {st : BitVec 3} (hok : r.OnOk fun t => t.state = st) (before : State) :
    (r.settle before).state = before.state ∨ (r.settle before).state = st ∨ (r.settle before).state = stError := by
  rcases r.settle_cases before with ⟨t, rfl, h⟩ | ⟨t, rfl, h⟩ | ⟨w, t, rfl, h⟩ <;> rw [h]
  · exact .inr (.inl (Flow.onOk_ok.1 hok))
  · exact .inr (.inr rfl)
  · exact .inl rfl

theorem State.startOk_state (s : State) : s.startOk.OnOk fun t => t.state = stRunning := by
  unfold State.startOk
  exact (State.sinkWrite_emits _ _).onOk.andThen fun t _ => (State.emit_emits _ _).onOk.andThen fun v _ => Flow.onOk_ok.2 rfl

theorem State.pixelHit_state {s : State} (hne : s.cursor ≠ s.n) : s.pixelHit.OnOk fun t => t.state = s.state :=
  State.withLookup_onOk hne (fun _ _ _ _ _ => Flow.onOk_ok.2 rfl) fun _ _ _ _ => Flow.onOk_ok.2 rfl

theorem State.pixelMissInsert_state {s : State} (hne : s.cursor ≠ s.n) : s.pixelMissInsert.OnOk fun t => t.state = s.state := by
  have emitted : ∀ slot fcode (c : Byte) d, (((s.withDraws d).advance.emit (s.withDraws d).advance.ent).andThen fun u =>
      .ok (State.allocate { u with ent := c.setWidth 12 } slot fcode)).OnOk fun t => t.state = s.state := fun _ _ _ d =>
    (State.emit_emits _ _).onOk.andThen fun u hu => Flow.onOk_ok.2 (hu.keeps State.state fun _ => rfl)
  exact State.withLookup_onOk hne (fun _ slot c d _ => emitted slot _ c d) fun slot c d _ => emitted slot _ c d

theorem State.pixelMissFull_state {s : State} (hne : s.cursor ≠ s.n) : s.pixelMissFull.OnOk fun t => t.state = stClearing := by
  have emitted : ∀ (c : Byte) d, (((s.withDraws d).advance.emit (s.withDraws d).advance.ent).andThen fun u =>
      .ok { u with ent := c.setWidth 12, state := stClearing }).OnOk fun t => t.state = stClearing := fun _ _ =>
    (State.emit_emits _ _).onOk.andThen fun u _ => Flow.onOk_ok.2 rfl
  exact State.withLookup_onOk hne (fun _ _ c d _ => emitted c d) fun _ c d _ => emitted c d

theorem State.clearBlock_state (s : State) : s.clearBlock.OnOk fun t => t.state = stRunning := by
  unfold State.clearBlock
  exact (State.emit_emits _ _).onOk.andThen fun u _ => Flow.onOk_ok.2 rfl

theorem State.finish_state (s : State) : s.finish.OnOk fun t => t.state = stDone := by
  have last : (if s.entValid then s.emit s.ent else .ok s).OnOk fun _ => True := fun _ _ => trivial
  unfold State.finish
  exact last.andThen fun t _ => (t.emit_emits _).onOk.andThen fun u _ => (u.sinkWrite_emits _).onOk.andThen fun v _ =>
    Flow.onOk_ok.2 rfl

/-- START_OK ends with START_REQ clear, unless it is inside a step that does not end. -/
theorem Flow.settle_startOk {s : State} (h : s.cfgOk = true) : (s.startOk.settle s).state = s.state ∨
    ((s.startOk.settle s).startReq = false ∧
      ((s.startOk.settle s).state = stRunning ∨ (s.startOk.settle s).state = stError)) := by
  have ok := s.startOk_state.and (State.startOk_begins (State.lDepth_le_of_cfgOk h))
  rcases s.startOk.settle_cases s with ⟨t, hr, h⟩ | ⟨t, _, h⟩ | ⟨w, t, _, h⟩ <;> rw [h]
  · obtain ⟨hst, _, _, hq, _⟩ := ok t hr
    exact .inr ⟨hq, .inl hst⟩
  · exact .inr ⟨rfl, .inr rfl⟩
  · exact .inl rfl

/-- The rows of the transition table that the engine's own steps take (R161). -/
def EngineTransition (s t : State) : Prop :=
  t.state = s.state ∨
  (s.startReq = true ∧ t.startReq = false ∧ (t.state = stRunning ∨ t.state = stError)) ∨
  (s.state = stRunning ∧ (t.state = stClearing ∨ t.state = stDone ∨ t.state = stError)) ∨
  (s.state = stClearing ∧ (t.state = stRunning ∨ t.state = stError))

theorem EngineTransition.dispatched {s t : State} {dv : BitVec 8} {i : Instr} (hv : s.dispatchVector = some dv)
    (hd : decodeDispatch dv = .ok i) (h : exec i s = .next t) : EngineTransition s t := by
  have eos : s.eos = false → s.cursor ≠ s.n := fun he hc => by simp [State.eos, hc] at he
  rcases State.dispatch_cases hv hd with ⟨hsr, hcfg, rfl⟩ | ⟨hsr, rfl⟩ | ⟨hst, rfl⟩ | ⟨hst, he, rfl⟩ |
    ⟨hst, he, _, rfl⟩ | ⟨hst, he, _, _, rfl⟩ | ⟨hst, rfl⟩
  · cases h
    exact (Flow.settle_startOk hcfg).imp_right fun ended => .inl ⟨hsr, ended⟩
  · cases h
    exact .inr (.inl ⟨hsr, rfl, .inr rfl⟩)
  · obtain ⟨_, rfl⟩ := State.withRoom_next h
    exact (Flow.settle_state s.finish_state s).imp_right fun ended => .inr (.inl ⟨hst, .inr ended⟩)
  · cases h
    rcases Flow.settle_state (State.pixelHit_state (eos he)) s with h | h | h
    · exact .inl h
    · exact .inl h
    · exact .inr (.inr (.inl ⟨hst, .inr (.inr h)⟩))
  · obtain ⟨_, rfl⟩ := State.withRoom_next h
    exact (Flow.settle_state (State.pixelMissFull_state (eos he)) s).imp_right fun ended =>
      .inr (.inl ⟨hst, ended.imp_right .inr⟩)
  · obtain ⟨_, rfl⟩ := State.withRoom_next h
    rcases Flow.settle_state (State.pixelMissInsert_state (eos he)) s with h | h | h
    · exact .inl h
    · exact .inl h
    · exact .inr (.inr (.inl ⟨hst, .inr (.inr h)⟩))
  · obtain ⟨_, rfl⟩ := State.withRoom_next h
    exact (Flow.settle_state s.clearBlock_state s).imp_right fun ended => .inr (.inr ⟨hst, ended⟩)

theorem EngineTransition.engineTurn {s u t : State} (hf : s.fetch = u.engineTurn) (h : step s = .next t) :
    EngineTransition u t := by
  rcases step_engineTurn hf h with rfl | rfl | ⟨dv, i, hv, hd, hx⟩
  · exact .inl rfl
  · exact .inl rfl
  · exact .dispatched hv hd hx

/-- A host transaction (R98) leaves STATE. -/
theorem exec_decodeHost_state {hb : BitVec 37} {s t : State} (h : exec (decodeHost hb) s = .next t) : t.state = s.state := by
  unfold decodeHost at h
  split at h <;> cases h
  · rcases s.csrStore_cases (field hb 32 4) (field hb 0 32) with ⟨_, _, h⟩ | ⟨_, _, _, _, h⟩ <;> rw [h]
  · rfl

/-! ### A run whose sink accepts (R163) -/

/-- One step nearer to the end of the run. -/
structure Advances (s t : State) : Prop where
  run : t.inRun
  inputs_eq : t.inputs = s.inputs
  stuck_eq : t.stuck = s.stuck
  remaining_lt : t.remaining < s.remaining
  answers : ∃ m ≤ 512, t.sinkAnswers = s.sinkAnswers.drop m

theorem Accepted.answers {s t : State} (h : Accepted 9 s t) (ha : s.aCount.toNat ≤ 253) :
    ∃ m ≤ 512, t.sinkAnswers = s.sinkAnswers.drop m := by
  obtain ⟨bs, _, answers, hlen⟩ := h.bytes
  exact ⟨bs.length, by omega, answers⟩

/-- What the progress of a run speaks of. -/
def State.progress (s : State) : BitVec 3 × List Input × Option Stuck × Word × Word × List SinkAnswer :=
  (s.state, s.inputs, s.stuck, s.n, s.cursor, s.sinkAnswers)

theorem State.withPixel_progress (s : State) (cursor : Word) (draws : Nat) (c : Byte) :
    (s.withPixel cursor draws c).progress = (s.state, s.inputs, s.stuck, s.n, cursor, s.sinkAnswers) := rfl

theorem State.allocate_progress (s : State) (slot : Slot) (fcode : Key) : (s.allocate slot fcode).progress = s.progress := rfl

theorem State.withState_progress (s : State) (st : BitVec 3) :
    ({ s with state := st } : State).progress = (st, s.progress.2) := rfl

section
variable {s t : State} {answers : List SinkAnswer} {m : Nat} (hm : m ≤ 512) (ha : answers = s.sinkAnswers.drop m)
include hm ha

/-- A pixel step: one pixel fewer is to come, and at most one clear more. -/
theorem Advances.of_pixel {st : BitVec 3} (hlt : s.cursor.toNat < s.n.toNat)
    (h : t.progress = (st, s.inputs, s.stuck, s.n, s.cursor + 1#32, answers)) (hst : st = stRunning ∨ st = stClearing) :
    Advances s t := by
  simp only [State.progress, Prod.mk.injEq] at h
  obtain ⟨rfl, hin, hstuck, hn, hcursor, rfl⟩ := h
  have next : t.cursor.toNat = s.cursor.toNat + 1 := by
    rw [hcursor]
    exact BitVec.toNat_add_of_lt (by have := s.n.isLt; simp only [BitVec.toNat_ofNat]; omega)
  refine ⟨hst, hin, hstuck, ?_, m, hm, ha⟩
  rw [State.remaining, State.remaining, next, hn]
  split_ifs <;> omega

/-- CLEAR_BLOCK: one clear fewer is to come. -/
theorem Advances.of_clear (hs : s.state = stClearing)
    (h : t.progress = (stRunning, s.inputs, s.stuck, s.n, s.cursor, answers)) : Advances s t := by
  simp only [State.progress, Prod.mk.injEq] at h
  obtain ⟨hst, hin, hstuck, hn, hcursor, rfl⟩ := h
  refine ⟨.inl hst, hin, hstuck, ?_, m, hm, ha⟩
  rw [State.remaining, State.remaining, hcursor, hn, if_pos hs, if_neg (by rw [hst]; decide)]
  omega

end

/-- FINISH, at the end of the stream, ends the run with every pixel read. -/
theorem exec_finish_ends {s : State} (ha : s.aCount.toNat ≤ 253) (hacc : s.accepts 512) (heos : s.cursor = s.n) :
    ∃ t, exec .finish s = .next t ∧ t.state = stDone ∧ t.cursor = t.n := by
  obtain ⟨last, room⟩ := State.lastEmitted_accepted ha
  have whole := (last.trans (State.emitted_accepted room (s.lastEmitted.eofc.setWidth 12)).1).emits
  have kept : (s.lastEmitted.ended.cursor, s.lastEmitted.ended.n) = (s.cursor, s.n) :=
    whole.keeps (fun u => (u.cursor, u.n)) fun _ => rfl
  simp only [Prod.mk.injEq] at kept
  exact ⟨_, exec_finish_eq ha hacc, rfl, kept.1.trans (heos.trans kept.2.symm)⟩

theorem exec_clearBlock_advances {s : State} (ha : s.aCount.toNat ≤ 253) (hacc : s.accepts 512) (hst : s.state = stClearing) :
    ∃ t, exec .clearBlock s = .next t ∧ Advances s t := by
  have emitted := (State.emitted_accepted (s := s.cleared) ha (s.clear.setWidth 12)).1
  obtain ⟨m, hm, answers⟩ := emitted.answers ha
  have kept := emitted.emits.keeps (fun u => (u.inputs, u.stuck, u.n, u.cursor)) fun _ => rfl
  simp only [Prod.mk.injEq] at kept
  obtain ⟨inputs, stuck, n, cursor⟩ := kept
  refine ⟨_, exec_clearBlock_eq ha hacc, .of_clear hm answers hst ?_⟩
  rw [State.withState_progress, State.progress, inputs, stuck, n, cursor]
  rfl

section
variable {s : State} (hst : s.state = stRunning) (hlt : s.cursor.toNat < s.n.toNat)
include hst hlt

theorem exec_pixelHit_advances {code : Code} {slot : Slot}
    (hl : s.dictLookup s.ent (s.pixRead s.cursor.toNat).1 = .hit code slot) :
    ∃ t, exec .pixelHit s = .next t ∧ Advances s t :=
  ⟨_, exec_pixelHit_of_hit (fun he => absurd (congrArg BitVec.toNat he) hlt.ne) hl,
    .of_pixel (Nat.zero_le _) (List.drop_zero).symm hlt rfl (.inl hst)⟩

variable (ha : s.aCount.toNat ≤ 253) (hacc : s.accepts 512) {slot : Slot}
  (hl : s.dictLookup s.ent (s.pixRead s.cursor.toNat).1 = .miss slot)
include ha hacc hl

/-- On a miss one pixel fewer is to come, whether the pair is stored or a clear follows. -/
theorem exec_pixelMiss_advances :
    (∃ t, exec .pixelMissInsert s = .next t ∧ Advances s t) ∧ ∃ t, exec .pixelMissFull s = .next t ∧ Advances s t := by
  have hne : s.cursor ≠ s.n := fun he => absurd (congrArg BitVec.toNat he) hlt.ne
  have emitted := (State.emitted_accepted ha s.ent).1
  obtain ⟨m, hm, answers⟩ := emitted.answers ha
  have kept := emitted.emits.keeps (fun u => (u.state, u.inputs, u.stuck, u.n)) fun _ => rfl
  simp only [Prod.mk.injEq] at kept
  obtain ⟨state, inputs, stuck, n⟩ := kept
  have pixel : s.pixelEmitted.progress =
      (s.state, s.inputs, s.stuck, s.n, s.cursor + 1#32, (s.emitted s.ent).sinkAnswers) := by
    rw [State.pixelEmitted, State.withPixel_progress, state, inputs, stuck, n]
  exact ⟨⟨_, exec_pixelMissInsert_of_miss hne ha hacc hl,
      .of_pixel hm answers hlt ((State.allocate_progress _ _ _).trans pixel) (.inl hst)⟩,
    ⟨_, exec_pixelMissFull_of_miss hne ha hacc hl,
      .of_pixel hm answers hlt ((State.withState_progress _ _).trans (by rw [pixel])) (.inr rfl)⟩⟩

end

section
variable {s : State} (hs : s.Inv) (hin : s.inputs = []) (hstuck : s.stuck = none)
include hs hin hstuck

/-- In a run the engine's step is the operation of its row (R100). -/
theorem State.Inv.step_of_run (hrun : s.inRun) {hit : Bool} (hhit : s.hit = some hit) : Machine.step s = exec
    (if s.state = stRunning then
      (if s.eos then .finish else if hit then .pixelHit else if s.full then .pixelMissFull else .pixelMissInsert)
    else .clearBlock) s := by
  have quiet : s.startReq = false := Bool.eq_false_of_not_eq_true fun h => hs.startReq_quiet h hrun
  refine Machine.step_of_run ((State.fetch_engineTurn (.inl ⟨hin, rfl⟩)).trans
    (State.engineTurn_of_ok hstuck hs.errCode_legal (State.dispatchVector_of_hit hhit) ?_))
  rw [decodeDispatch_packDispatch, if_neg hs.not_unreachable, quiet, if_neg nofun]
  rcases hrun with h | h
  · rw [if_pos h, if_pos h]
  · have hne : s.state ≠ stRunning := by rw [h]; decide
    rw [if_neg hne, if_neg hne, if_pos h]

/-- A step of a run whose sink accepts is FINISH with every pixel read, or it goes on. -/
theorem State.Inv.step_advances (hrun : s.inRun) (hacc : s.accepts 512) :
    ∃ t, Machine.step s = .next t ∧ ((t.state = stDone ∧ t.cursor = t.n) ∨ Advances s t) := by
  have hr := hs.in_run hrun
  have ha := hr.aCount_range
  have goesOn : ∀ {i}, Machine.step s = exec i s → (∃ t, exec i s = .next t ∧ Advances s t) →
      ∃ t, Machine.step s = .next t ∧ ((t.state = stDone ∧ t.cursor = t.n) ∨ Advances s t) :=
    fun hx ⟨t, ht, h⟩ => ⟨t, hx.trans ht, .inr h⟩
  rcases id hrun with hst | hst
  · by_cases heos : s.cursor = s.n
    · have hhit : s.hit = some false := if_neg fun ⟨_, hlt⟩ => hlt.ne (congrArg BitVec.toNat heos)
      obtain ⟨t, ht, hend⟩ := exec_finish_ends ha hacc heos
      have step := hs.step_of_run hin hstuck hrun hhit
      rw [if_pos hst, State.eos, if_pos (beq_iff_eq.2 heos)] at step
      exact ⟨t, step.trans ht, .inl hend⟩
    · have hlt := hr.cursor_lt heos
      have looked : s.hit = _ := if_pos ⟨hst, hlt⟩
      have eos : s.eos = false := beq_eq_false_iff_ne.2 heos
      cases hl : s.dictLookup s.ent (s.pixRead s.cursor.toNat).1 with
      | hit code slot =>
        rw [hl] at looked
        have step := hs.step_of_run hin hstuck hrun looked
        rw [if_pos hst, eos, if_neg nofun, if_pos rfl] at step
        exact goesOn step (exec_pixelHit_advances hst hlt hl)
      | miss slot =>
        rw [hl] at looked
        obtain ⟨insert, full⟩ := exec_pixelMiss_advances hst hlt ha hacc hl
        have step := hs.step_of_run hin hstuck hrun looked
        rw [if_pos hst, eos, if_neg nofun, if_neg nofun] at step
        split at step
        · exact goesOn step full
        · exact goesOn step insert
      | endless =>
        have below : s.occupied < 5003 := by have := hr.occupied_eq; have := hr.freeEnt_range; omega
        obtain ⟨j, hj, hempty⟩ := State.exists_key_none below
        exact absurd hl (State.dictLookup_ne_endless hj hempty _ _)
  · have hne : s.state ≠ stRunning := by rw [hst]; decide
    have step := hs.step_of_run hin hstuck hrun (State.hit_of_not_running hne)
    rw [if_neg hne] at step
    exact goesOn step (exec_clearBlock_advances ha hacc hst)

end

theorem run_succ {M : Host.Core} {k : Nat} {s t : M.State} (h : M.step s = .next t) : M.run (k + 1) s = M.run k t := by
  rw [Host.Core.run, h]

/-- The run comes to its end, by induction on a bound of what is left of it. -/
theorem State.Inv.run_reaches_done (r : Nat) {s : State} (hs : s.Inv) (hrun : s.inRun) (hin : s.inputs = [])
    (hstuck : s.stuck = none) (hr : s.remaining ≤ r) (hacc : s.accepts (512 * (r + 1))) :
    ∃ k t, k ≤ r + 1 ∧ core.run k s = .next t ∧ t.state = stDone ∧ t.cursor = t.n := by
  induction r generalizing s with
  | zero =>
    obtain ⟨t, ht, hend | hadv⟩ := hs.step_advances hin hstuck hrun hacc
    · exact ⟨1, t, le_refl 1, run_succ (M := core) ht, hend⟩
    · exact absurd hadv.remaining_lt (by omega)
  | succ r ih =>
    obtain ⟨t, ht, hend | hadv⟩ := hs.step_advances hin hstuck hrun (s.accepts_le hacc (by omega))
    · exact ⟨1, t, by omega, run_succ (M := core) ht, hend⟩
    · obtain ⟨m, hm, answers⟩ := hadv.answers
      have less := hadv.remaining_lt
      obtain ⟨k, u, hk, hu, hend⟩ := ih (hs.step ht) hadv.run (hadv.inputs_eq.trans hin) (hadv.stuck_eq.trans hstuck) (by omega)
        (State.accepts_of_drop hacc answers (by omega))
      exact ⟨k + 1, u, by omega, (run_succ (M := core) ht).trans hu, hend⟩

end Sys2Proof.Machine

open Sys2Proof Sys2Proof.Machine

/-- Settles O6: the engine's turn runs the operation decoded. -/
theorem stepRunsTheDispatchedOperation : Obligations.StepRunsTheDispatchedOperation := fun _ _ _ _ hturn hs he hv hd =>
  step_of_run ((State.fetch_engineTurn hturn).trans (State.engineTurn_of_ok hs he hv hd))

/-- Settles O8: no row matches the dispatch vector of such a state. -/
theorem quiescentEngineTakesNoStep : Obligations.QuiescentEngineTakesNoStep := fun _ _ hturn he hq hst =>
  step_of_move ((State.fetch_engineTurn hturn).trans (State.engineTurn_of_quiescent he hq hst))

/-- Settles O53: the engine's steps change STATE by the row that the dispatch vector selects, and of the host's moves only RESET does. -/
theorem stateChangesAsTheTableSays : Obligations.StateChangesAsTheTableSays := by
  intro s t h hcall
  rcases s.fetch_cases with ⟨_, hf⟩ | ⟨rest, _, hf⟩ | ⟨hb, rest, _, hf⟩ | ⟨rest, hin, hf⟩ | ⟨call, rest, hin, _⟩ |
    ⟨a, b, rest, _, hf⟩
  · exact Or.imp_right .inr (EngineTransition.engineTurn hf h)
  · exact Or.imp_right .inr (EngineTransition.engineTurn (u := s.withInputs rest) hf h)
  · exact .inl (exec_decodeHost_state (s := s.withInputs rest) ((step_of_run hf).symm.trans h))
  · cases (step_of_run hf).symm.trans h
    exact .inr (.inl ⟨rfl, rest, hin⟩)
  · exact absurd hin (hcall call rest)
  · cases (step_of_move hf).symm.trans h
    exact .inl rfl

/-- Settles O60: every step before FINISH lowers what is left of the run, and asks the sink for at most 512 bytes. -/
theorem acceptedRunReachesDone : Obligations.AcceptedRunReachesDone := fun s hs hrun hin hstuck hacc =>
  hs.run_reaches_done s.remaining hrun hin hstuck (le_refl _) hacc
end

section
/-! PROOFS. EMIT where the block may fill (44_bit_packer.md rules R190 to R195; 45_block_writer.md rules R210, R211): the bytes that the
Bit Packer hands on, the sub-block of 254 that leaves as soon as it is full, and what the flush at EOFC writes after it. -/

namespace Sys2Proof.Machine

/-! ### The framing of the pending bytes (R210, R211) -/

/-- The sub-block that leaves as soon as 254 bytes are pending (R210). -/
def filledBlock (data : List Byte) : List Byte := if data.length < 254 then [] else 0xFE#8 :: data.take 254

/-- The bytes that stay pending once the full block has left. -/
def stillPending (data : List Byte) : List Byte := if data.length < 254 then data else data.drop 254

/-- The sub-block of a flush (R211): none if nothing is pending. -/
def flushedBlock (data : List Byte) : List Byte := if data = [] then [] else BitVec.ofNat 8 data.length :: data

theorem framed_eq (data : List Byte) : framed data = filledBlock data ++ flushedBlock (stillPending data) := by
  unfold framed filledBlock stillPending flushedBlock
  split <;> rfl

section
variable {data : List Byte}

theorem filledBlock_of_room (h : data.length < 254) : filledBlock data = [] := if_pos h

theorem filledBlock_of_full (h : ¬ data.length < 254) : filledBlock data = 0xFE#8 :: data.take 254 := if_neg h

theorem stillPending_of_room (h : data.length < 254) : stillPending data = data := if_pos h

theorem stillPending_of_full (h : ¬ data.length < 254) : stillPending data = data.drop 254 := if_neg h

theorem filledBlock_length_le : (filledBlock data).length ≤ 255 := by
  by_cases h : data.length < 254
  · rw [filledBlock_of_room h]
    exact Nat.zero_le _
  · rw [filledBlock_of_full h, List.length_cons, List.length_take]
    omega

theorem stillPending_length (h : data.length < 508) :
    (stillPending data).length < 254 ∧ (stillPending data).length ≤ data.length := by
  by_cases hroom : data.length < 254
  · rw [stillPending_of_room hroom]
    exact ⟨hroom, le_refl _⟩
  · rw [stillPending_of_full hroom, List.length_drop]
    omega

variable {more : List Byte} (h : (data ++ more).length < 508)
include h

/-- Of fewer than 508 bytes at most one block fills, with the earlier bytes or with the later ones. -/
theorem framing_append : filledBlock (data ++ more) = filledBlock data ++ filledBlock (stillPending data ++ more) ∧
    stillPending (data ++ more) = stillPending (stillPending data ++ more) := by
  rw [List.length_append] at h
  by_cases hroom : data.length < 254
  · rw [filledBlock_of_room hroom, stillPending_of_room hroom]
    exact ⟨rfl, rfl⟩
  · have full : ¬ (data ++ more).length < 254 := by rw [List.length_append]; omega
    have rest : (data.drop 254 ++ more).length < 254 := by rw [List.length_append, List.length_drop]; omega
    rw [filledBlock_of_full full, filledBlock_of_full hroom, stillPending_of_full full, stillPending_of_full hroom,
      filledBlock_of_room rest, stillPending_of_room rest, List.append_nil, List.take_append_of_le_length (by omega),
      List.drop_append_of_le_length (by omega)]
    exact ⟨rfl, rfl⟩

end

/-! ### The bytes accepted -/

/-- From s to t the sink has accepted the bytes bs with the answers of its list. -/
structure Sends (bs : List Byte) (s t : State) : Prop where
  outputs : Outputs bs s t
  answers_eq : t.sinkAnswers = s.sinkAnswers.drop bs.length

theorem Sends.trans {bs cs : List Byte} {s t u : State} (h1 : Sends bs s t) (h2 : Sends cs t u) : Sends (bs ++ cs) s u :=
  ⟨h1.outputs.trans h2.outputs, by rw [h2.answers_eq, h1.answers_eq, List.drop_drop, List.length_append]⟩

/-- BLOCK_FLUSH (R211). -/
theorem State.flushed_sends (s : State) : Sends (flushedBlock s.pendingBytes) s s.flushed := by
  have empty : s.pendingBytes = [] ↔ ¬ 0 < s.aCount.toNat := by
    rw [← List.length_eq_zero_iff, State.pendingBytes_length, Nat.pos_iff_ne_zero, not_not]
  unfold State.flushed flushedBlock
  by_cases hpos : 0 < s.aCount.toNat
  · rw [if_pos hpos, if_neg (empty.not.2 (not_not.2 hpos)), State.pendingBytes_length, BitVec.ofNat_toNat, BitVec.setWidth_eq]
    exact ⟨⟨rfl, rfl⟩, rfl⟩
  · rw [if_neg hpos, if_pos (empty.2 hpos)]
    exact ⟨.none rfl rfl, rfl⟩

theorem State.flushed_blockByte (s : State) (j : Nat) : s.flushed.blockByte j = s.blockByte j := by
  unfold State.flushed
  split <;> rfl

/-! ### Bytes for the Block Writer -/

/-- From s to t the bytes bs have come to the block: it left as soon as it was full, and the entries above the bytes are kept. -/
structure Feeds (bs : List Byte) (s t : State) : Prop where
  sends : Sends (filledBlock (s.pendingBytes ++ bs)) s t
  pendingBytes_eq : t.pendingBytes = stillPending (s.pendingBytes ++ bs)
  blockByte_eq : ∀ j, (s.pendingBytes ++ bs).length ≤ j → t.blockByte j = s.blockByte j

/-- The registers of the Block Writer, the block and the sink. -/
def State.blockView (s : State) : BitVec 8 × Vector Byte Config.blockMax × List Byte × Word × List SinkAnswer :=
  (s.aCount, s.bb, s.sinkOut, s.outCount, s.sinkAnswers)

theorem Feeds.of_blockView {s t : State} (ha : s.aCount.toNat ≤ 253) (h : t.blockView = s.blockView) : Feeds [] s t := by
  simp only [State.blockView, Prod.mk.injEq] at h
  obtain ⟨count, block, out, number, answers⟩ := h
  have blockByte : t.blockByte = s.blockByte := by unfold State.blockByte; rw [block]
  have room : (s.pendingBytes ++ []).length < 254 := by rw [List.append_nil, State.pendingBytes_length]; omega
  refine ⟨?_, ?_, fun j _ => congrFun blockByte j⟩
  · rw [filledBlock_of_room room]
    exact ⟨.none out number, answers⟩
  · rw [stillPending_of_room room, List.append_nil, State.pendingBytes, State.pendingBytes, count, blockByte]

section
variable {bs cs : List Byte} {s t u : State}

theorem Feeds.room (h : Feeds bs s t) (hlen : s.aCount.toNat + bs.length < 508) :
    t.aCount.toNat ≤ 253 ∧ t.aCount.toNat ≤ s.aCount.toNat + bs.length := by
  have lengths := stillPending_length (data := s.pendingBytes ++ bs) (by rwa [List.length_append, State.pendingBytes_length])
  rw [← h.pendingBytes_eq, List.length_append, State.pendingBytes_length, State.pendingBytes_length] at lengths
  omega

theorem Feeds.trans (h1 : Feeds bs s t) (h2 : Feeds cs t u) (hlen : s.aCount.toNat + (bs ++ cs).length < 508) :
    Feeds (bs ++ cs) s u := by
  obtain ⟨sends, pending, kept⟩ := h2
  rw [List.length_append] at hlen
  obtain ⟨filled, still⟩ := framing_append (data := s.pendingBytes ++ bs) (more := cs)
    (by rw [List.length_append, List.length_append, State.pendingBytes_length]; omega)
  have room := h1.room (by omega)
  rw [h1.pendingBytes_eq] at sends pending
  rw [← still, List.append_assoc] at pending
  have sent := h1.sends.trans sends
  rw [← filled, List.append_assoc] at sent
  refine ⟨sent, pending, fun j hj => ?_⟩
  simp only [List.length_append, State.pendingBytes_length] at hj
  rw [kept j (by rw [List.length_append, State.pendingBytes_length]; omega),
    h1.blockByte_eq j (by rw [List.length_append, State.pendingBytes_length]; omega)]

/-- A change of the packer's fields after the bytes. -/
theorem Feeds.of_blockView_eq (h : Feeds bs s t) (hlen : s.aCount.toNat + bs.length < 508) (hu : u.blockView = t.blockView) :
    Feeds bs s u := by
  have whole := h.trans (.of_blockView (h.room hlen).1 hu) (by rwa [List.append_nil])
  rwa [List.append_nil] at whole

/-- The flush after the bytes (R195, R211): they have been written, framed. -/
theorem Feeds.flushed (h : Feeds bs s t) : Sends (framed (s.pendingBytes ++ bs)) s t.flushed := by
  rw [framed_eq, ← h.pendingBytes_eq]
  exact h.sends.trans t.flushed_sends

end

section
variable {s : State} (ha : s.aCount.toNat ≤ 253)
include ha

/-- BYTE_OUT (R210). -/
theorem State.fed_feeds (b : Byte) : Feeds [b] s (s.fed b) := by
  have pending := State.pendingBytes_pushByte ha b
  have count := State.pushByte_aCount_toNat ha b
  have length : (s.pendingBytes ++ [b]).length = s.aCount.toNat + 1 := by
    rw [List.length_append, State.pendingBytes_length, List.length_singleton]
  have kept : ∀ j, (s.pendingBytes ++ [b]).length ≤ j → (s.pushByte b).blockByte j = s.blockByte j := fun j hj => by
    rw [State.blockByte_pushByte ha, if_neg (by omega)]
  unfold State.fed
  split
  case isTrue hfull =>
    rw [Config.blockMax] at hfull
    have full : ¬ (s.pendingBytes ++ [b]).length < 254 := by omega
    have sends := (s.pushByte b).flushed_sends
    rw [pending, flushedBlock, if_neg (List.append_ne_nil_of_right_ne_nil _ (List.cons_ne_nil _ _)), length, ← count,
      hfull] at sends
    refine ⟨?_, ?_, fun j hj => (State.flushed_blockByte _ j).trans (kept j hj)⟩
    · rw [filledBlock_of_full full, List.take_of_length_le (by omega)]
      exact .trans (bs := []) (t := s.pushByte b) ⟨.none rfl rfl, rfl⟩ sends
    · rw [stillPending_of_full full, List.drop_eq_nil_of_le (by omega), State.pendingBytes, State.flushed_aCount]
      rfl
  case isFalse hroom =>
    rw [Config.blockMax] at hroom
    have room : (s.pendingBytes ++ [b]).length < 254 := by omega
    refine ⟨?_, ?_, kept⟩
    · rw [filledBlock_of_room room]
      exact ⟨.none rfl rfl, rfl⟩
    · rw [stillPending_of_room room, pending]

/-- BYTE_OUT goes on where the sink accepts the block that it fills (R210). -/
theorem State.byteOut_fed (b : Byte) (h : s.accepts (filledBlock (s.pendingBytes ++ [b])).length) :
    s.byteOut b = .ok (s.fed b) := by
  have count := State.pushByte_aCount_toNat ha b
  unfold State.byteOut State.fed
  split
  case isTrue hfull =>
    rw [Config.blockMax] at hfull
    have length : (s.pendingBytes ++ [b]).length = 254 := by
      rw [List.length_append, State.pendingBytes_length, List.length_singleton]; omega
    rw [filledBlock_of_full (by omega), List.length_cons, List.length_take, length] at h
    exact State.blockFlush_eq (by rw [hfull]; exact h)
  case isFalse => rfl

/-- BYTE_OUT, and then a change of the packer's fields. -/
theorem State.fed_blockView_feeds {b : Byte} {t : State} (h : t.blockView = (s.fed b).blockView) : Feeds [b] s t :=
  (State.fed_feeds ha b).of_blockView_eq (by rw [List.length_singleton]; omega) h

end

/-! ### Complete bytes leave the accumulator (R192) -/

theorem State.fed_dropByte_acc (s : State) (b : Byte) : (s.fed b).dropByte.acc.toNat = s.acc.toNat / 256 := by
  rw [State.dropByte_acc, acc_of_packer (s.fed_packer b), BitVec.toNat_ushiftRight, Nat.shiftRight_eq_div_pow]

theorem State.fed_dropByte_bits {s : State} (h : 8 ≤ s.bits.toNat) (b : Byte) :
    (s.fed b).dropByte.bits.toNat = s.bits.toNat - 8 := by
  have hle : 8#5 ≤ s.bits := BitVec.le_def.2 (by simpa only [BitVec.toNat_ofNat] using h)
  rw [State.dropByte_bits, bits_of_packer (s.fed_packer b), BitVec.toNat_sub_of_le hle]
  rfl

/-- The bits above the k low bytes are still held. -/
theorem State.drained_held (k : Nat) {s : State} (h : 8 * k ≤ s.bits.toNat) :
    (s.drained k).acc.toNat = s.acc.toNat / 256 ^ k ∧ (s.drained k).bits.toNat = s.bits.toNat - 8 * k := by
  induction k generalizing s with
  | zero => exact ⟨(Nat.div_one _).symm, rfl⟩
  | succ k ih =>
    have bits := State.fed_dropByte_bits (s := s) (by omega) (s.acc.setWidth 8)
    obtain ⟨acc, rest⟩ := ih (s := (s.fed (s.acc.setWidth 8)).dropByte) (by omega)
    rw [State.fed_dropByte_acc, Nat.div_div_eq_div_mul, ← Nat.pow_succ'] at acc
    exact ⟨acc, rest.trans (by omega)⟩

/-- The k low bytes of the accumulator go to the block, where the sink accepts the block that they fill. -/
theorem State.drain_feeds (k : Nat) {s : State} (ha : s.aCount.toNat ≤ 253) (hk : s.aCount.toNat + k < 508) :
    Feeds (lowBytes s.acc.toNat k) s (s.drained k) ∧
      (s.accepts (filledBlock (s.pendingBytes ++ lowBytes s.acc.toNat k)).length → s.drain k = .ok (s.drained k)) := by
  induction k generalizing s with
  | zero => exact ⟨.of_blockView ha rfl, fun _ => rfl⟩
  | succ k ih =>
    have first := State.fed_blockView_feeds (t := (s.fed (s.acc.setWidth 8)).dropByte) ha rfl
    have room := first.room (by rw [List.length_singleton]; omega)
    rw [List.length_singleton] at room
    obtain ⟨rest, goesOn⟩ := ih (s := (s.fed (s.acc.setWidth 8)).dropByte) room.1 (by omega)
    have bytes : lowBytes s.acc.toNat (k + 1) = [s.acc.setWidth 8] ++ lowBytes (s.acc.toNat / 256) k := by
      rw [Nat.add_comm, lowBytes_add, lowBytes_one, BitVec.ofNat_toNat, Nat.pow_one]
    rw [State.fed_dropByte_acc] at rest goesOn
    rw [bytes]
    refine ⟨first.trans rest (by rw [List.length_append, List.length_singleton, lowBytes_length]; omega), fun h => ?_⟩
    have filled := (framing_append (data := s.pendingBytes ++ [s.acc.setWidth 8]) (more := lowBytes (s.acc.toNat / 256) k)
      (by simp only [List.length_append, List.length_singleton, State.pendingBytes_length, lowBytes_length]; omega)).1
    rw [← List.append_assoc, filled, List.length_append] at h
    rw [State.drain, State.byteOut_fed ha _ (s.accepts_le h (Nat.le_add_right _ _)), Flow.andThen_ok]
    exact goesOn (State.accepts_of_drop h first.sends.answers_eq (by rw [first.pendingBytes_eq]))

/-! ### EMIT -/

/-- What the width update leaves (R194, R197). -/
theorem State.updateWidth_rule {s t : State} (h : t.widths = s.updateWidth.widths) :
    (if s.clearFlag then t.nBits = BitVec.ofNat 4 (s.init.toNat + 1)
      else if s.maxCode.toNat < s.freeEnt.toNat ∧ s.nBits.toNat < 12 then t.nBits.toNat = s.nBits.toNat + 1
      else t.nBits = s.nBits) ∧
    (if s.clearFlag ∨ (s.maxCode.toNat < s.freeEnt.toNat ∧ s.nBits.toNat < 12)
      then t.maxCode = BitVec.ofNat 12 (2 ^ t.nBits.toNat - 1) else t.maxCode = s.maxCode) ∧
    t.clearFlag = false := by
  simp only [State.widths, Prod.mk.injEq] at h
  obtain ⟨nBits, maxCode, clearFlag⟩ := h
  rw [nBits, maxCode, clearFlag, State.updateWidth_clearFlag]
  unfold State.updateWidth
  simp only [Config.maxBits]
  by_cases hclear : s.clearFlag
  · simp [hclear, initWidth, maxCodeOf]
  by_cases hgrow : s.maxCode.toNat < s.freeEnt.toNat ∧ s.nBits.toNat < 12
  · have grown : (s.nBits + 1#4).toNat = s.nBits.toNat + 1 :=
      BitVec.toNat_add_of_lt (by simp only [BitVec.toNat_ofNat]; omega)
    simp [hclear, hgrow, grown, maxCodeOf]
  · simp [hclear, hgrow]

theorem State.updateWidth_blockView (s : State) : s.updateWidth.blockView = s.blockView := by
  unfold State.updateWidth
  split_ifs <;> rfl

/-- The partial byte of the flush at EOFC, zero-padded, comes to the block first (R195). -/
theorem State.eofFlushed_feeds {s : State} (ha : s.aCount.toNat ≤ 253) (hbits : s.bits.toNat ≤ 7) :
    ∃ t, s.eofFlushed = t.flushed ∧ Feeds (lowBytes s.acc.toNat ((s.bits.toNat + 7) / 8)) s t := by
  refine ⟨_, rfl, ?_⟩
  split
  case isTrue hpos =>
    rw [show (s.bits.toNat + 7) / 8 = 1 by omega, lowBytes_one, BitVec.ofNat_toNat]
    exact State.fed_blockView_feeds ha rfl
  case isFalse hzero =>
    rw [show (s.bits.toNat + 7) / 8 = 0 by omega]
    exact .of_blockView ha rfl

section
variable {s : State} (hp : s.packed) (ha : s.aCount.toNat ≤ 253) (code : Code)
include hp

/-- Steps 1 to 3 of EMIT (R190): the bits that are still held. -/
theorem State.packedUp_held :
    (s.packedUp code).acc.toNat = s.packedValue code / 256 ^ ((s.bits.toNat + s.nBits.toNat) / 8) ∧
      (s.packedUp code).bits.toNat = (s.bits.toNat + s.nBits.toNat) % 8 := by
  have bits := State.appendCode_bits_toNat s code hp
  obtain ⟨acc, held⟩ := State.drained_held ((s.appendCode code).bits.toNat / 8) (s := s.appendCode code) (by omega)
  have pack := State.updateWidth_pack ((s.appendCode code).drained ((s.appendCode code).bits.toNat / 8))
  simp only [Prod.mk.injEq] at pack
  obtain ⟨bitsKept, accKept, _⟩ := pack
  rw [State.packedUp, bitsKept, accKept, acc, held, State.appendCode_acc_toNat s code hp, bits]
  exact ⟨rfl, by omega⟩

include ha

/-- Steps 1 to 3 of EMIT (R190): the complete bytes go to the block, where the sink accepts the block that they fill. -/
theorem State.packedUp_feeds :
    Feeds (lowBytes (s.packedValue code) ((s.bits.toNat + s.nBits.toNat) / 8)) s (s.packedUp code) ∧
      (s.accepts 255 → (s.appendCode code).drain ((s.appendCode code).bits.toNat / 8) =
        .ok ((s.appendCode code).drained ((s.appendCode code).bits.toNat / 8))) := by
  have bits := State.appendCode_bits_toNat s code hp
  have range := (s.appendCode code).bits.isLt
  have room : s.aCount.toNat + (s.appendCode code).bits.toNat / 8 < 508 := by omega
  obtain ⟨drained, goesOn⟩ := State.drain_feeds _ (s := s.appendCode code) ha room
  have appended : Feeds [] s (s.appendCode code) := .of_blockView ha rfl
  have few : s.aCount.toNat + (lowBytes (s.appendCode code).acc.toNat ((s.appendCode code).bits.toNat / 8)).length < 508 := by
    rwa [lowBytes_length]
  have widened := (appended.trans drained few).of_blockView_eq few (State.updateWidth_blockView _)
  rw [List.nil_append, State.appendCode_acc_toNat s code hp] at widened
  exact ⟨bits ▸ widened, fun h => goesOn (State.accepts_le (s := s.appendCode code) h filledBlock_length_le)⟩

/-- EMIT of a code other than EOFC: steps 1 to 3, for which 255 answers are enough. -/
theorem State.emit_of_ne_eofc (hcode : code.toNat ≠ s.eofc.toNat) (h : s.accepts 255) : s.emit code = .ok (s.packedUp code) := by
  have eofc : (s.packedUp code).eofc = s.eofc := (State.packedUp_accepted ha code).1.emits.keeps State.eofc fun _ => rfl
  unfold State.emit
  dsimp only
  rw [(State.packedUp_feeds hp ha code).2 h, Flow.andThen_ok, ← State.packedUp, if_neg (by rwa [eofc])]

/-- EMIT of EOFC (R195): all of the code's bytes come to the block, the last one zero-padded, before the flush. -/
theorem State.emitted_eof_feeds (hcode : code.toNat = s.eofc.toNat) :
    ∃ t, s.emitted code = t.flushed ∧
      Feeds (lowBytes (s.packedValue code) ((s.bits.toNat + s.nBits.toNat + 7) / 8)) s t := by
  obtain ⟨up, room⟩ := State.packedUp_accepted ha code
  obtain ⟨acc, held⟩ := State.packedUp_held hp code
  have eofc : (s.packedUp code).eofc = s.eofc := up.emits.keeps State.eofc fun _ => rfl
  obtain ⟨t, flush, last⟩ := State.eofFlushed_feeds room (by omega)
  have complete := (State.packedUp_feeds hp ha code).1
  obtain ⟨hbits, _, hn⟩ := hp
  rw [acc, held] at last
  have whole := complete.trans last (by simp only [List.length_append, lowBytes_length]; omega)
  rw [← lowBytes_add, show (s.bits.toNat + s.nBits.toNat) / 8 + ((s.bits.toNat + s.nBits.toNat) % 8 + 7) / 8 =
    (s.bits.toNat + s.nBits.toNat + 7) / 8 by omega] at whole
  exact ⟨t, by rw [State.emitted, if_pos (by rw [eofc, hcode]), flush], whole⟩

end

/-- What has been written and what is pending, by whether the block filled (R210). -/
theorem Feeds.by_block {bs data : List Byte} {s t : State} (h : Feeds bs s t) (hdata : s.pendingBytes ++ bs = data) :
    if data.length < 254 then
      t.sinkOut = s.sinkOut ∧ t.outCount = s.outCount ∧ t.sinkAnswers = s.sinkAnswers ∧ t.pendingBytes = data
    else
      t.sinkOut = s.sinkOut ++ 0xFE#8 :: data.take 254 ∧ t.outCount = s.outCount + 255#32 ∧
      t.sinkAnswers = s.sinkAnswers.drop 255 ∧ t.pendingBytes = data.drop 254 := by
  obtain ⟨⟨⟨out, count⟩, answers⟩, pending, _⟩ := h
  rw [hdata] at out count answers pending
  split
  case isTrue room =>
    rw [filledBlock_of_room room] at out count answers
    rw [stillPending_of_room room] at pending
    exact ⟨out.trans (List.append_nil _), count.trans (BitVec.add_zero _), answers, pending⟩
  case isFalse full =>
    have length : (filledBlock data).length = 255 := by
      rw [filledBlock_of_full full, List.length_cons, List.length_take, Nat.min_eq_left (by omega)]
    rw [length] at count answers
    rw [filledBlock_of_full full] at out
    rw [stillPending_of_full full] at pending
    exact ⟨out, count, answers, pending⟩

end Sys2Proof.Machine

open Sys2Proof Sys2Proof.Machine

/-- Settles O30: the complete bytes go to the block, the bits above them are held, and then the width is updated. -/
theorem emitPacksTheCode : Obligations.EmitPacksTheCode := by
  intro s code hp ha hacc hcode
  have feeds := (State.packedUp_feeds hp ha code).1
  obtain ⟨acc, bits⟩ := State.packedUp_held hp code
  obtain ⟨nBits, maxCode, clearFlag⟩ := State.updateWidth_rule (State.packedUp_widths ha code)
  refine ⟨s.packedUp code, ?_, ⟨bits, acc, feeds.by_block rfl, feeds.blockByte_eq⟩, nBits, maxCode, clearFlag,
    (State.packedUp_accepted ha code).1.eq⟩
  change s.withRoom (s.emit code) = _
  rw [State.withRoom_of_le ha, State.emit_of_ne_eofc hp ha code hcode hacc]
  rfl

/-- Settles O31: all the bytes have come to the block before the flush, which writes them framed. -/
theorem emitOfEofFlushesEverything : Obligations.EmitOfEofFlushesEverything := by
  intro s code hp ha hacc hcode
  obtain ⟨acc, bits, aCount⟩ := State.emitted_eof ha hcode
  obtain ⟨nBits, maxCode, clearFlag⟩ := State.updateWidth_rule (State.emitted_widths ha code)
  obtain ⟨t, flush, feeds⟩ := State.emitted_eof_feeds hp ha code hcode
  have sends := feeds.flushed
  have kept := t.flushed_blockByte
  rw [← flush] at sends kept
  exact ⟨s.emitted code, exec_emit_eq ha (State.accepts_emission ha hacc) code,
    ⟨acc, bits, aCount, sends.outputs.sinkOut_eq, sends.outputs.outCount_eq, sends.answers_eq,
      fun j hj => (kept j).trans (feeds.blockByte_eq j hj)⟩,
    nBits, maxCode, clearFlag, (State.emitted_accepted ha code).1.eq⟩
end

section
/-! PROOFS. The Block Writer and the byte sink (45_block_writer.md rules R210 to R213, R216): what each answer of the sink leads to, the
byte that fills the block, the flush that the sink accepts or fails, and the step that waits for the sink. -/

namespace Sys2Proof.Machine

/-! ### One byte for the sink (R216) -/

theorem State.takeAnswer_of_cons {s : State} {a : SinkAnswer} {rest : List SinkAnswer} (h : s.sinkAnswers = a :: rest) :
    s.takeAnswer = (a, { s with sinkAnswers := rest }) := by rw [State.takeAnswer, h]

theorem State.takeAnswer_of_nil {s : State} (h : s.sinkAnswers = []) :
    s.takeAnswer = (Config.sinkAnswer s.draws, s.withDraws (s.draws + 1)) := by rw [State.takeAnswer, h]

/-- Asking the sink changes the coming answers and the number of free values drawn alone (log 4). -/
theorem State.takeAnswer_cases (s : State) :
    ∃ a answers draws, s.takeAnswer = (a, { s with sinkAnswers := answers, draws := draws }) := by
  cases h : s.sinkAnswers with
  | nil => exact ⟨_, _, _, State.takeAnswer_of_nil h⟩
  | cons a rest => exact ⟨a, rest, s.draws, State.takeAnswer_of_cons h⟩

/-- SINK_WRITE of a byte that the sink accepts; HEADER_OUT and TERMINATOR_OUT are such writes of their byte. -/
theorem exec_sinkWrite_of_accept {s : State} {rest : List SinkAnswer} (h : s.sinkAnswers = .accept :: rest) (b : Byte) :
    exec (.sinkWrite b) s =
      .next { s with sinkOut := s.sinkOut ++ [b], outCount := s.outCount + 1#32, sinkAnswers := rest } := by
  change Host.Outcome.next ((s.sinkWrite b).settle s) = _
  rw [State.sinkWrite, State.takeAnswer_of_cons h]
  rfl

/-! ### Bytes of which the sink fails one (R244, R248) -/

theorem State.sinkWriteAll_append (s : State) (bs cs : List Byte) :
    s.sinkWriteAll (bs ++ cs) = (s.sinkWriteAll bs).andThen fun t => t.sinkWriteAll cs := by
  induction bs generalizing s with
  | nil => rfl
  | cons b bs ih =>
    rw [List.cons_append, State.sinkWriteAll, State.sinkWriteAll]
    cases s.sinkWrite b with
    | ok t => exact ih t
    | raised t => rfl
    | stuck w t => rfl

/-- The bytes before the failed one are output and counted, and none after it is offered. -/
theorem State.sinkWriteAll_fail {k : Nat} {s : State} {bs : List Byte} {rest : List SinkAnswer} (hk : k < bs.length)
    (h : s.sinkAnswers = List.replicate k .accept ++ .fail :: rest) :
    s.sinkWriteAll bs = .raised { s.afterBytes (bs.take k) with sinkAnswers := rest } := by
  have length : (bs.take k).length = k := List.length_take_of_le hk.le
  have accepted : s.accepts (bs.take k).length := by rw [length, State.accepts, h]; simp
  have failed : (s.afterBytes (bs.take k)).sinkAnswers = .fail :: rest := by rw [State.afterBytes, length, h]; simp
  calc s.sinkWriteAll bs
      = s.sinkWriteAll (bs.take k ++ bs[k] :: bs.drop (k + 1)) := by rw [List.getElem_cons_drop, List.take_append_drop]
    _ = (s.afterBytes (bs.take k)).sinkWriteAll (bs[k] :: bs.drop (k + 1)) := by
        rw [State.sinkWriteAll_append, s.sinkWriteAll_accept _ accepted, Flow.andThen_ok]
    _ = .raised { s.afterBytes (bs.take k) with sinkAnswers := rest } := by
        rw [State.sinkWriteAll, State.sinkWrite_fail failed, Flow.andThen_raised]

/-! ### The block (R210, R211) -/

theorem exec_blockFlush_eq {s : State} (h : s.aCount.toNat ≤ 254) : exec .blockFlush s = .next (s.blockFlush.settle s) := if_pos h

/-- BLOCK_FLUSH that the sink fails at its byte k. -/
theorem State.blockFlush_fail {k : Nat} {s : State} {rest : List SinkAnswer} (hpos : 0 < s.aCount.toNat) (hk : k ≤ s.aCount.toNat)
    (h : s.sinkAnswers = List.replicate k .accept ++ .fail :: rest) :
    s.blockFlush = .raised { s.afterBytes ((s.aCount :: s.pendingBytes).take k) with sinkAnswers := rest } := by
  have length : k < (s.aCount :: s.pendingBytes).length := by rw [List.length_cons, State.pendingBytes_length]; omega
  rw [State.blockFlush, if_pos hpos, State.sinkWriteAll_fail length h, Flow.andThen_raised]

/-- The 254th byte fills the block, and the block is written. -/
theorem State.fed_of_full {s : State} (h : s.aCount.toNat = 253) (b : Byte) : s.fed b =
    { (s.pushByte b).afterBytes (0xFE#8 :: s.pendingBytes ++ [b]) with aCount := 0#8 } := by
  have full : (s.pushByte b).aCount = 0xFE#8 := BitVec.eq_of_toNat_eq (by rw [State.pushByte_aCount_toNat h.le, h]; rfl)
  rw [State.fed, State.flushed, full, State.pendingBytes_pushByte h.le]
  rfl

/-! ### Inside a step that does not end (R216, log 5, log 12) -/

section
variable {s : State} {w : Stuck} (h : s.stuck = some w)
include h

theorem State.engineTurn_of_stuck : s.engineTurn = .move s := by rw [State.engineTurn, h]

theorem State.callTurn_of_stuck (call : BitVec 56) : s.callTurn call = .move s := by rw [State.callTurn, h]

end

/-- A host transaction (R98) neither begins nor ends a step of the engine. -/
theorem exec_decodeHost_stuck {hb : BitVec 37} {s t : State} (h : exec (decodeHost hb) s = .next t) : t.stuck = s.stuck := by
  unfold decodeHost at h
  split at h <;> cases h
  case isTrue =>
    rcases s.csrStore_cases (field hb 32 4) (field hb 0 32) with ⟨_, _, h⟩ | ⟨_, _, _, _, h⟩ <;> rw [h]
  case isFalse => rfl

end Sys2Proof.Machine

open Sys2Proof Sys2Proof.Machine

/-- Settles O32: the byte is pushed, and where it is the 254th the block is written after it. -/
theorem byteOutFillsTheBlock : Obligations.ByteOutFillsTheBlock := by
  intro s b ha hacc
  have answers : exec (.byteOut b) s = .next ((s.byteOut b).settle s) := State.withRoom_of_le ha _
  have kept : ∀ j, j ≠ s.aCount.toNat → (s.pushByte b).blockByte j = s.blockByte j := fun j hj => by
    rw [State.blockByte_pushByte ha, if_neg hj.symm]
  have joined : (s.pushByte b).blockByte s.aCount.toNat = b := by rw [State.blockByte_pushByte ha, if_pos rfl]
  by_cases room : s.aCount.toNat < 253
  · rw [State.byteOut_of_room room] at answers
    refine ⟨_, answers, kept, joined, ?_⟩
    rw [if_pos room]
    exact ⟨State.pushByte_aCount_toNat ha b, rfl⟩
  · have full : s.aCount.toNat = 253 := by omega
    have length : (0xFE#8 :: s.pendingBytes ++ [b]).length = 255 := by simp [full]
    rw [State.byteOut_eq ha b (by rw [full]; exact hacc full), State.fed_of_full full, State.afterBytes, length] at answers
    refine ⟨_, answers, kept, joined, ?_⟩
    rw [if_neg room]
    exact ⟨rfl, (List.append_assoc _ _ _).symm, rfl, rfl, rfl⟩

/-- Settles O33: where the sink accepts, the flush leaves `State.flushed`. -/
theorem blockFlushWritesLengthAndData : Obligations.BlockFlushWritesLengthAndData := by
  intro s ha hacc
  rw [exec_blockFlush_eq ha, State.blockFlush_eq hacc, State.flushed, State.afterBytes, List.length_cons, State.pendingBytes_length]
  by_cases hempty : s.aCount.toNat = 0
  · rw [if_neg (by omega), if_pos hempty]
    rfl
  · rw [if_pos (by omega), if_neg hempty]
    rfl

/-- Settles O34: the raise keeps the bytes output before the failed one, and their count. -/
theorem blockFlushStopsAtTheFailedByte : Obligations.BlockFlushStopsAtTheFailedByte := by
  intro s k rest hpos ha hk h
  have length : ((s.aCount :: s.pendingBytes).take k).length = k := by
    rw [List.length_take, List.length_cons, State.pendingBytes_length]
    omega
  have failed := exec_blockFlush_eq ha
  rw [State.blockFlush_fail hpos hk h, State.afterBytes, length] at failed
  exact ⟨_, failed, rfl, rfl, rfl, rfl, rfl, rfl, rfl, rfl, rfl, rfl, rfl⟩

/-- Settles O9: the engine's turn and a call stand still while `stuck` is set, the host's moves leave it set, and RESET clears it. -/
theorem stuckEngineIsLeftOnlyByReset : Obligations.StuckEngineIsLeftOnlyByReset := by
  intro s w h
  have stuck : ∀ moves, (s.withInputs moves).stuck = some w := fun _ => h
  refine ⟨fun hin => ?_, fun rest hin => ?_, fun call rest hin => ?_, fun hb rest hin => ?_, fun a b rest hin => ?_, fun rest hin => ?_⟩
  · exact step_of_move ((State.fetch_engineTurn (.inl ⟨hin, rfl⟩)).trans (State.engineTurn_of_stuck h))
  · exact step_of_move ((State.fetch_engineTurn (.inr ⟨rest, hin, rfl⟩)).trans (State.engineTurn_of_stuck (stuck rest)))
  · exact step_of_move ((State.fetch_primitive hin).trans (State.callTurn_of_stuck (stuck rest) call))
  · obtain ⟨t, ht⟩ := exec_decodeHost_next hb (s.withInputs rest)
    exact ⟨t, (step_of_run (State.fetch_host hin)).trans ht, (exec_decodeHost_stuck ht).trans (stuck rest)⟩
  · exact ⟨_, step_of_move (State.fetch_pixWrite hin), stuck rest⟩
  · exact ⟨_, step_of_run (State.fetch_reset hin), rfl⟩

/-- Settles O35: each of the three is one sink write of its byte. -/
theorem acceptedByteIsOutputAndCounted : Obligations.AcceptedByteIsOutputAndCounted := fun _ _ h =>
  ⟨exec_sinkWrite_of_accept h, fun init => exec_sinkWrite_of_accept h (init.setWidth 8), exec_sinkWrite_of_accept h 0x00#8⟩

/-- Settles O37: the answer decides, and asking for it changes no register. -/
theorem everySinkAnswerHasItsOutcome : Obligations.EverySinkAnswerHasItsOutcome := by
  intro s b
  obtain ⟨a, answers, draws, asked⟩ := s.takeAnswer_cases
  have settled : exec (.sinkWrite b) s = .next ((s.sinkWrite b).settle s) := rfl
  rw [State.sinkWrite, asked] at settled
  refine ⟨fun _ _ => State.takeAnswer_of_cons, State.takeAnswer_of_nil, ?_⟩
  rw [asked]
  refine ⟨?accept, ?fail, ?silent⟩ <;> rintro (rfl : a = _)
  case accept => exact settled
  case fail => exact ⟨_, settled, rfl, rfl, rfl, rfl, rfl, rfl, rfl, rfl⟩
  case silent => exact settled
end

section
/-! PROOFS. A write of CTRL (46_host_interface.md rule R232): START acts where BUSY = 0 alone, and a write without it does nothing. -/

namespace Sys2Proof.Machine

theorem State.startCommand_of_busy {s : State} (h : s.busy = true) : s.startCommand = s := if_pos h

theorem State.startCommand_of_not_busy {s : State} (h : ¬s.busy = true) : s.startCommand = { s with
    lWidth := s.width, lHeight := s.height, lDepth := s.depth, lBuflen := s.buflen, startReq := true, pixDirty := [] } := if_neg h

theorem exec_csrWrite_ctrl_start {wdata : Word} (h : wdata.getLsbD 0 = true) (s : State) :
    exec (.csrWrite 0#4 wdata) s = .next s.startCommand :=
  (exec_csrWrite 0#4 wdata s).trans (congrArg _ (if_pos h))

theorem exec_csrWrite_ctrl_noStart {wdata : Word} (h : ¬wdata.getLsbD 0 = true) (s : State) :
    exec (.csrWrite 0#4 wdata) s = .next s :=
  (exec_csrWrite 0#4 wdata s).trans (congrArg _ (if_neg h))

end Sys2Proof.Machine

open Sys2Proof Sys2Proof.Machine

/-- Settles O16: the premises shut out each of the three ways of BUSY, so that START is not ignored. -/
theorem startLatchesTheConfiguration : Obligations.StartLatchesTheConfiguration := by
  intro s wdata hreq hrunning hclearing
  have idle : ¬s.busy = true := by simp [s.busy_iff, hreq, hrunning, hclearing]
  refine ⟨fun hstart => ?_, fun hstart => exec_csrWrite_ctrl_noStart (Bool.eq_false_iff.1 hstart) s⟩
  rw [exec_csrWrite_ctrl_start hstart, State.startCommand_of_not_busy idle]

/-- Settles O17: START is ignored while BUSY, and any other write of CTRL always. -/
theorem startWhileBusyIsIgnored : Obligations.StartWhileBusyIsIgnored := by
  intro s wdata hbusy
  by_cases hstart : wdata.getLsbD 0 = true
  · rw [exec_csrWrite_ctrl_start hstart, State.startCommand_of_busy (s.busy_iff.2 hbusy)]
  · exact exec_csrWrite_ctrl_noStart hstart s
end

section
/-! PROOFS. A byte the sink fails (60_exceptions.md rule R244), offered by one of the three primitives that write one byte. -/

namespace Sys2Proof.Machine

theorem exec_sinkWrite_of_fail {s : State} {rest : List SinkAnswer} (h : s.sinkAnswers = .fail :: rest) (b : Byte) :
    exec (.sinkWrite b) s = .next (({ s with sinkAnswers := rest } : State).raise .sinkFailure) :=
  congrArg (fun r : Flow => Host.Outcome.next (r.settle s)) (State.sinkWrite_fail h b)

end Sys2Proof.Machine

open Sys2Proof Sys2Proof.Machine

/-- Settles O36: each of the three is one sink write of its byte; what is kept is what the entry of SinkFailure keeps. -/
theorem failedByteRaisesSinkFailure : Obligations.FailedByteRaisesSinkFailure := by
  intro s rest i h hi
  have raised : exec i s = .next (({ s with sinkAnswers := rest } : State).raise .sinkFailure) := by
    rcases hi with ⟨b, rfl⟩ | ⟨init, rfl⟩ | rfl
    · exact exec_sinkWrite_of_fail h b
    · exact exec_sinkWrite_of_fail h (init.setWidth 8)
    · exact exec_sinkWrite_of_fail h 0x00#8
  exact ⟨_, raised, by simp⟩
end

section
/-! PROOFS. RESET and the start of a run after it or after an earlier run (70_reset_and_hazards.md rules R270, R272, R275): what RESET
clears, the START of the configuration it leaves, and START_OK from registers and memories that anything may have left. -/

namespace Sys2Proof.Machine

/-! ### RESET (R270) -/

theorem State.csrValue_applyReset (s : State) (idx : BitVec 4) : s.applyReset.csrValue idx = 0#32 := csrValue_reset idx

/-- Only the byte that the engine waits to have accepted can join the sink's bytes (U6). -/
theorem State.applyReset_sinkOut_cases (s : State) :
    s.applyReset.sinkOut = s.sinkOut ∨ ∃ b, s.stuck = some (.sink b) ∧ s.applyReset.sinkOut = s.sinkOut ++ [b] := by
  unfold State.applyReset
  cases s.stuck with
  | none => exact .inl rfl
  | some why =>
    cases why with
    | probe => exact .inl rfl
    | sink b =>
      dsimp only
      split_ifs
      · exact .inr ⟨b, rfl, rfl⟩
      · exact .inl rfl

/-! ### The engine's turn with a START to take (R150, R161) -/

theorem State.not_inRun_of_quiescent {s : State} (h : s.state = stIdle ∨ s.state = stDone ∨ s.state = stError) :
    s.state.toNat ≤ 4 ∧ s.state ≠ stRunning ∧ s.state ≠ stClearing := by
  rcases h with h | h | h <;> rw [h] <;> decide

/-- A pending START is begun where the configuration is valid, and rejected elsewhere. -/
theorem State.engineTurn_of_startReq {s : State} (hs : s.stuck = none) (he : s.errCode.toNat ≤ 2) (hreq : s.startReq = true)
    (hst : s.state = stIdle ∨ s.state = stDone ∨ s.state = stError) :
    s.engineTurn = .run (if s.cfgOk then .startOk else .startInvalid) s := by
  obtain ⟨legal, notRunning, notClearing⟩ := State.not_inRun_of_quiescent hst
  have reachable : ¬ s.unreachable := by
    rintro (h | ⟨_, h | h⟩)
    · omega
    · exact notRunning h
    · exact notClearing h
  refine State.engineTurn_of_ok hs he (State.dispatchVector_of_hit (State.hit_of_not_running notRunning)) ?_
  rw [decodeDispatch_packDispatch, if_neg reachable, if_pos hreq]

/-- All checks but that of the buffer's length fail for the configuration after reset (R151). -/
theorem State.validate_of_zero {s : State} (h : s.latched = (0#16, 0#16, 0#8, 0#32)) : s.validate = 0b0111#4 := by
  simp only [State.latched, Prod.mk.injEq] at h
  obtain ⟨width, height, depth, buflen⟩ := h
  rw [State.validate, width, height, depth, buflen]
  decide

/-- START of that configuration: the engine's turn rejects it with those reasons (R152, R242). -/
theorem step_rejects_of_zero {s : State} (hin : s.inputs = []) (hs : s.stuck = none) (he : s.errCode.toNat ≤ 2)
    (hreq : s.startReq = true) (hst : s.state = stIdle ∨ s.state = stDone ∨ s.state = stError)
    (hzero : s.latched = (0#16, 0#16, 0#8, 0#32)) : step s = .next
      (State.raise { s with startReq := false, outCount := 0#32 } (.invalidInput 0b0111#4)) := by
  have invalid := State.validate_of_zero hzero
  have fetched := (State.fetch_engineTurn (.inl ⟨hin, rfl⟩)).trans (State.engineTurn_of_startReq hs he hreq hst)
  rw [State.cfgOk, invalid, if_neg (by decide)] at fetched
  rw [step_of_run fetched, ← invalid]
  rfl

/-! ### States that differ in stale data alone -/

/-- The states differ in CT, of which a lookup reads only what was inserted since the clear, and in the entries of BB that are not
pending. -/
structure EqUpToStale (s t : State) : Prop where
  frame : ∃ ct bb, t = { s with ct := ct, bb := bb }
  pendingBytes_eq : t.pendingBytes = s.pendingBytes

theorem EqUpToStale.refl (s : State) : EqUpToStale s s := ⟨⟨s.ct, s.bb, rfl⟩, rfl⟩

theorem EqUpToStale.of_empty {s t : State} (h : s.aCount = 0#8) (frame : ∃ ct bb, t = { s with ct := ct, bb := bb }) :
    EqUpToStale s t := by
  have nothing : ∀ u : State, u.aCount = 0#8 → u.pendingBytes = [] := fun u hu =>
    List.eq_nil_of_length_eq_zero (u.pendingBytes_length.trans (congrArg BitVec.toNat hu))
  obtain ⟨ct, bb, rfl⟩ := frame
  exact ⟨⟨ct, bb, rfl⟩, (nothing { s with ct := ct, bb := bb } h).trans (nothing s h).symm⟩

theorem EqUpToStale.withState {s t : State} (h : EqUpToStale s t) (st : BitVec 3) :
    EqUpToStale { s with state := st } { t with state := st } := by
  obtain ⟨⟨ct, bb, rfl⟩, pending⟩ := h
  exact ⟨⟨ct, bb, rfl⟩, pending⟩

theorem EqUpToStale.appendCode {s t : State} (h : EqUpToStale s t) (code : Code) :
    EqUpToStale (s.appendCode code) (t.appendCode code) := by
  obtain ⟨⟨ct, bb, rfl⟩, pending⟩ := h
  exact ⟨⟨ct, bb, rfl⟩, pending⟩

theorem EqUpToStale.updateWidth {s t : State} (h : EqUpToStale s t) : EqUpToStale s.updateWidth t.updateWidth := by
  obtain ⟨⟨ct, bb, rfl⟩, pending⟩ := h
  unfold State.updateWidth
  dsimp only
  split_ifs <;> exact ⟨⟨ct, bb, rfl⟩, pending⟩

/-- The bytes that leave the accumulator are the same, so the blocks hold the same after them. -/
theorem EqUpToStale.packs {k : Nat} {s t u v : State} (h : EqUpToStale s t) (hu : Packs k s u) (hv : Packs k t v) :
    EqUpToStale u v := by
  obtain ⟨⟨ct, bb, rfl⟩, pending⟩ := h
  have joined : v.pendingBytes = u.pendingBytes := by rw [hv.pendingBytes_eq, hu.pendingBytes_eq, pending]
  have acc : v.acc = u.acc := BitVec.eq_of_toNat_eq (hv.acc_eq.trans hu.acc_eq.symm)
  have bits : v.bits = u.bits := BitVec.eq_of_toNat_eq (hv.bits_eq.trans hu.bits_eq.symm)
  have aCount : v.aCount = u.aCount := BitVec.eq_of_toNat_eq (hv.aCount_eq.trans hu.aCount_eq.symm)
  refine ⟨⟨ct, v.bb, ?_⟩, joined⟩
  rw [hv.frame, hu.frame, acc, bits, aCount]

/-! ### The emission into a block that is nearly empty

R272 is asked of START_OK at every depth, so the ranges of R36 are not at hand here. -/

section
variable {s : State} (ha : s.aCount.toNat ≤ 250) (code : Code)
include ha

/-- BITS is below 32, so at most 3 bytes join the block. -/
theorem State.appendCode_drain_of_few :
    (s.appendCode code).drain ((s.appendCode code).bits.toNat / 8) =
        .ok ((s.appendCode code).drained ((s.appendCode code).bits.toNat / 8)) ∧
      Packs ((s.appendCode code).bits.toNat / 8) (s.appendCode code)
        ((s.appendCode code).drained ((s.appendCode code).bits.toNat / 8)) := by
  have range := (s.appendCode code).bits.isLt
  have room : (s.appendCode code).aCount.toNat + (s.appendCode code).bits.toNat / 8 ≤ 253 := by
    rw [State.appendCode_aCount]
    omega
  exact State.drained_packs _ room (Nat.mul_div_le _ 8)

/-- EMIT of a code other than EOFC asks the sink for nothing, in whatever state the packer is. -/
theorem State.emit_of_few (hcode : code.toNat ≠ s.eofc.toNat) : s.emit code = .ok (s.packedUp code) := by
  have eofc : (s.packedUp code).eofc = s.eofc := (State.packedUp_accepted (by omega) code).1.emits.keeps State.eofc fun _ => rfl
  unfold State.emit
  dsimp only
  rw [(State.appendCode_drain_of_few ha code).1, Flow.andThen_ok, ← State.packedUp, if_neg (by rwa [eofc])]

theorem EqUpToStale.packedUp {t : State} (h : EqUpToStale s t) : EqUpToStale (s.packedUp code) (t.packedUp code) := by
  obtain ⟨ct, bb, rfl⟩ := h.frame
  exact ((h.appendCode code).packs (State.appendCode_drain_of_few ha code).2
    (State.appendCode_drain_of_few (s := { s with ct := ct, bb := bb }) ha code).2).updateWidth

theorem EqUpToStale.emit {t : State} (h : EqUpToStale s t) (hcode : code.toNat ≠ s.eofc.toNat) :
    ∃ u v, s.emit code = .ok u ∧ t.emit code = .ok v ∧ EqUpToStale u v := by
  obtain ⟨ct, bb, rfl⟩ := h.frame
  exact ⟨_, _, State.emit_of_few ha code hcode, State.emit_of_few (s := { s with ct := ct, bb := bb }) ha code hcode,
    h.packedUp ha code⟩

end

/-! ### START_OK (R153, R272) -/

/-- The state with the working registers and the private memories that an earlier run, a failed one or reset left in w. -/
def State.withLeftovers (s w : State) : State :=
  { s with
    init := w.init, clear := w.clear, eofc := w.eofc, n := w.n, cursor := w.cursor, ent := w.ent, entValid := w.entValid,
    nBits := w.nBits, maxCode := w.maxCode, freeEnt := w.freeEnt, clearFlag := w.clearFlag, acc := w.acc, bits := w.bits,
    aCount := w.aCount, outCount := w.outCount, errCode := w.errCode, reason := w.reason, ht := w.ht, ct := w.ct,
    bb := w.bb }

/-- The sink's answer depends on its coming answers and on how many free values were drawn (log 4). -/
theorem State.takeAnswer_congr {s t : State} (h : (t.sinkAnswers, t.draws) = (s.sinkAnswers, s.draws)) :
    ∃ a answers draws, s.takeAnswer = (a, { s with sinkAnswers := answers, draws := draws }) ∧
      t.takeAnswer = (a, { t with sinkAnswers := answers, draws := draws }) := by
  simp only [Prod.mk.injEq] at h
  obtain ⟨answers, draws⟩ := h
  cases hs : s.sinkAnswers with
  | nil =>
    refine ⟨Config.sinkAnswer s.draws, s.sinkAnswers, s.draws + 1, State.takeAnswer_of_nil hs, ?_⟩
    rw [State.takeAnswer_of_nil (answers.trans hs), ← answers, ← draws]
    rfl
  | cons a rest =>
    refine ⟨a, rest, s.draws, State.takeAnswer_of_cons hs, ?_⟩
    rw [State.takeAnswer_of_cons (answers.trans hs), ← draws]

/-- The first pixel depends on CURSOR, N and PIX; ENT and ENT_VALID are written without being read. -/
theorem State.firstPixel_eq (s : State) : s.firstPixel =
    if s.cursor = s.n then s.withFirst s.cursor 0#12 false s.draws
    else s.withFirst (s.cursor + 1#32) ((s.pixRead s.cursor.toNat).1.setWidth 12) true (s.pixRead s.cursor.toNat).2.draws := by
  split_ifs with heos
  · rw [State.firstPixel, State.nextPixel, if_pos heos]
    rfl
  · rw [State.firstPixel, State.nextPixel_of_ne heos]
    rfl

/-- With nothing pending, what ENT, ENT_VALID, CT and BB hold before the first pixel leaves a trace in CT and BB alone. -/
theorem State.firstPixel_eqUpToStale {s : State} (hempty : s.aCount = 0#8) (w : State) :
    EqUpToStale s.firstPixel
      { s with ent := w.ent, entValid := w.entValid, ct := w.ct, bb := w.bb : State }.firstPixel := by
  obtain ⟨pixel, draws⟩ := s.pixRead_congr
    (t := { s with ent := w.ent, entValid := w.entValid, ct := w.ct, bb := w.bb }) rfl s.cursor.toNat
  rw [State.firstPixel_eq, State.firstPixel_eq]
  dsimp only
  rw [pixel, draws]
  split_ifs <;> exact .of_empty hempty ⟨w.ct, w.bb, rfl⟩

/-- EOFC is never CLEAR, whatever INIT is. -/
theorem runEofc_ne (clear : BitVec 9) : clear.toNat ≠ (runEofc clear).toNat := by
  have := clear.isLt
  rw [runEofc, BitVec.toNat_ofNat]
  omega

/-- START_OK after the header byte (R153). -/
def State.afterHeader (s : State) : Flow :=
  (s.freshRun.firstPixel.emit (s.freshRun.firstPixel.clear.setWidth 12)).andThen fun v => .ok { v with state := stRunning }

theorem State.startOk_eq_afterHeader (s : State) :
    s.startOk = (s.startRun.headerOut s.startRun.init).andThen State.afterHeader := rfl

/-- After the header byte START_OK goes on to its end. -/
theorem State.afterHeader_eqUpToStale {s t before before' : State} (w : State) (hs : s.eofc = runEofc s.clear)
    (ht : t.freshRun = { s.freshRun with ent := w.ent, entValid := w.entValid, ct := w.ct, bb := w.bb }) :
    EqUpToStale (s.afterHeader.settle before) (t.afterHeader.settle before') := by
  have pixel := State.firstPixel_eqUpToStale (s := s.freshRun) rfl w
  have kept := s.freshRun.firstPixel_operates
  have clear : s.freshRun.firstPixel.clear = s.clear := kept.keeps State.clear fun _ => rfl
  have eofc : s.freshRun.firstPixel.eofc = runEofc s.clear := (kept.keeps State.eofc fun _ => rfl).trans hs
  have count : s.freshRun.firstPixel.aCount = 0#8 := by
    rw [State.firstPixel_eq]
    split_ifs <;> rfl
  rw [← ht] at pixel
  obtain ⟨ct, bb, frame⟩ := pixel.frame
  have clear' : t.freshRun.firstPixel.clear = s.clear := (congrArg State.clear frame).trans clear
  obtain ⟨u, v, hu, hv, same⟩ := pixel.emit (by rw [count]; decide) (s.clear.setWidth 12)
    (by rw [code_setWidth_toNat, eofc]; exact runEofc_ne s.clear)
  rw [State.afterHeader, State.afterHeader, clear, clear', hu, hv]
  exact same.withState stRunning

/-- START_OK from what w left ends as from s, up to stale data: the sink gives the header byte the same answer. -/
theorem State.startOk_withLeftovers (s w : State) (h : (s.startOk.settle s).stuck = none) :
    EqUpToStale (s.startOk.settle s) ((s.withLeftovers w).startOk.settle (s.withLeftovers w)) := by
  obtain ⟨a, answers, draws, asked, asked'⟩ := State.takeAnswer_congr (s := s.startRun) (t := (s.withLeftovers w).startRun) rfl
  rw [State.startOk_eq_afterHeader, State.headerOut, State.sinkWrite, asked] at h ⊢
  rw [State.startOk_eq_afterHeader, State.headerOut, State.sinkWrite, asked']
  cases a with
  | accept =>
    dsimp only
    rw [Flow.andThen_ok, Flow.andThen_ok]
    exact State.afterHeader_eqUpToStale w rfl rfl
  | fail => exact .refl _
  | silent => cases h

end Sys2Proof.Machine

open Sys2Proof Sys2Proof.Machine

/-- Settles O19: START latches the zeros, and the engine's turn finds the START pending and the configuration invalid. -/
theorem startWithResetConfigurationIsRejected : Obligations.StartWithResetConfigurationIsRejected := by
  intro s hin hstuck hst hreq herr hw hh hd hb
  obtain ⟨_, notRunning, notClearing⟩ := State.not_inRun_of_quiescent hst
  have started := (step_of_run (State.fetch_host hin)).trans
    ((startLatchesTheConfiguration (s.withInputs []) 1#32 hreq notRunning notClearing).1 rfl)
  refine ⟨_, _, started, step_rejects_of_zero rfl hstuck herr rfl hst ?_, rfl, rfl, rfl, rfl⟩
  exact Prod.ext hw (Prod.ext hh (Prod.ext hd hb))

/-- Settles O59: START_OK asks the sink for one byte, which is the same, and writes every register before it reads it. -/
theorem startOkForgetsEarlierRuns : Obligations.StartOkForgetsEarlierRuns := by
  intro s w t t' ht hstuck ht'
  have ended : s.startOk.settle s = t := Host.Outcome.next.inj ht
  have ended' : (s.withLeftovers w).startOk.settle (s.withLeftovers w) = t' := Host.Outcome.next.inj ht'
  have same := s.startOk_withLeftovers w (by rw [ended, hstuck])
  rw [ended, ended'] at same
  obtain ⟨⟨ct, bb, rfl⟩, pending⟩ := same
  exact ⟨rfl, pending⟩

/-- Settles O18: RESET leaves the registers of `State.reset`, so every CSR reads 0, and PIX and the sink's bytes of s. -/
theorem resetClearsEveryRegister : Obligations.ResetClearsEveryRegister := by
  intro s
  have sink := s.applyReset_sinkOut_cases
  refine ⟨s.applyReset, rfl, ?_⟩
  simp [exec_csrRead, s.csrValue_applyReset, sink]
end

section
/-! PROOFS. Decoding and encoding undo each other (30_encoding.md sections 3 and 4): a word is its fields, one above the other. -/

namespace Sys2Proof

open Sys2Proof.Machine

/-! ### Fields and their concatenation -/

theorem mul_two_pow_add_eq_toNat_append {m n : Nat} (x : BitVec m) (y : BitVec n) :
    x.toNat * 2 ^ n + y.toNat = (x ++ y).toNat := by
  rw [BitVec.toNat_append, ← Nat.shiftLeft_add_eq_or_of_lt y.isLt, Nat.shiftLeft_eq]

theorem field_append_field {k m n lo hi : Nat} (v : BitVec k) (h : lo + n = hi) :
    field v hi m ++ field v lo n = field v lo (m + n) :=
  BitVec.extractLsb'_append_extractLsb'_eq_extractLsb' h.symm

theorem field_all {n : Nat} (v : BitVec n) : field v 0 n = v := BitVec.extractLsb'_eq_self

theorem field_append_of_le {m k lo w : Nat} (x : BitVec m) (y : BitVec k) (h : lo + w ≤ k) :
    field (x ++ y) lo w = field y lo w := BitVec.extractLsb'_append_eq_of_add_le h

theorem field_setWidth {n m lo w : Nat} (v : BitVec n) (h : lo + w ≤ m) : field (v.setWidth m) lo w = field v lo w := by
  ext i hi
  simp [field, show lo + i < m by omega]

/-! ### A primitive's call word (log 2), its operands taken together as one value -/

theorem encodePrimitive_eq_append {n uop : Nat} (hn : n ≤ 48) (hu : uop < 16) (v : BitVec n) :
    encodePrimitive uop v.toNat = v.setWidth 48 ++ 0#4 ++ BitVec.ofNat 4 uop := by
  have hv : v.toNat < 2 ^ 48 := v.isLt.trans_le (Nat.pow_le_pow_right (by decide) hn)
  apply BitVec.eq_of_toNat_eq
  rw [← mul_two_pow_add_eq_toNat_append, ← mul_two_pow_add_eq_toNat_append]
  simp only [encodePrimitive, BitVec.toNat_ofNat, BitVec.toNat_setWidth]
  omega

theorem field_encodePrimitive_operands {n uop lo w : Nat} (hn : n ≤ 48) (hu : uop < 16) (v : BitVec n) (hlo : 8 ≤ lo)
    (h : lo + w ≤ 8 + n) : field (encodePrimitive uop v.toNat) lo w = field v (lo - 8) w := by
  rw [encodePrimitive_eq_append hn hu, field_append_high _ _ _ (by omega), field_append_high _ _ _ (by omega),
    field_setWidth _ (by omega), Nat.sub_sub]

theorem uop_encodePrimitive {n uop : Nat} (hn : n ≤ 48) (hu : uop < 16) (v : BitVec n) :
    (field (encodePrimitive uop v.toNat) 0 4).toNat = uop := by
  rw [encodePrimitive_eq_append hn hu, field_append_low _ _ rfl, BitVec.toNat_ofNat, Nat.mod_eq_of_lt hu]

theorem reserved_encodePrimitive {n uop : Nat} (hn : n ≤ 48) (hu : uop < 16) (v : BitVec n) :
    field (encodePrimitive uop v.toNat) 4 4 = 0#4 := by
  rw [encodePrimitive_eq_append hn hu, field_append_high _ _ _ le_rfl, field_append_low _ _ rfl]

theorem encodePrimitive_shiftRight {n uop : Nat} (hu : uop < 16) (v : BitVec n) :
    encodePrimitive uop v.toNat >>> (8 + n) = 0#56 := by
  have hv := v.isLt
  apply BitVec.eq_of_toNat_eq
  rw [BitVec.toNat_ushiftRight, Nat.shiftRight_eq_div_pow, encodePrimitive, BitVec.toNat_ofNat, pow_add]
  exact Nat.div_eq_of_lt ((Nat.mod_le _ _).trans_lt (by omega))

theorem setWidth_field_of_shiftRight {n m lo k : Nat} {w : BitVec k} (h : w >>> (lo + n) = 0#k) :
    (field w lo n).setWidth m = field w lo m := by
  ext i hi
  have above (hle : n ≤ i) : w.getLsbD (lo + i) = false := by
    have := congrArg (BitVec.getLsbD · (i - n)) h
    simpa [show lo + n + (i - n) = lo + i by omega] using this
  rcases lt_or_ge i n with hlt | hge
  · simp [field, hlt]
  · simp [field, above hge]

/-- A call word whose bits outside its fields are zero is the one made from its UOP and its operands. -/
theorem encodePrimitive_fields {n : Nat} {w : BitVec 56} (hn : n ≤ 48) (hz : field w 4 4 = 0#4) (ht : w >>> (8 + n) = 0#56) :
    encodePrimitive (field w 0 4).toNat (field w 8 n).toNat = w := by
  have whole : field w 8 48 ++ field w 4 4 ++ field w 0 4 = w := by
    rw [BitVec.append_assoc, field_append_field w (by decide), BitVec.cast_eq, field_append_field w (by decide), field_all]
  rw [encodePrimitive_eq_append hn (field w 0 4).isLt, setWidth_field_of_shiftRight ht, BitVec.ofNat_toNat,
    BitVec.setWidth_eq, ← hz, whole]

/-! ### The primitives: what the encoder writes, and what the decoder reads -/

/-- A primitive's word is its UOP and its operands, the first lowest, and the decoder reads them back. -/
theorem callFields_encode {i : Instr} (h : i.format = .primitive) :
    ∃ uop < 16, ∃ n ≤ 48, ∃ v : BitVec n, encode i = (encodePrimitive uop v.toNat).toNat ∧
      callFields (encodePrimitive uop v.toNat) = .ok (i, 8 + n) := by
  cases i <;> cases h
  case' nextPixel.refl => refine ⟨0x1, by decide, 0, by decide, 0#0, rfl, ?_⟩
  case' dictClear.refl => refine ⟨0x2, by decide, 0, by decide, 0#0, rfl, ?_⟩
  case' dictHash.refl ent c =>
    refine ⟨0x3, by decide, 20, by decide, c ++ ent, by rw [encode, mul_two_pow_add_eq_toNat_append], ?_⟩
  case' dictLookup.refl ent c =>
    refine ⟨0x4, by decide, 20, by decide, c ++ ent, by rw [encode, mul_two_pow_add_eq_toNat_append], ?_⟩
  case' dictInsert.refl slot fcode code =>
    refine ⟨0x5, by decide, 45, by decide, code ++ (fcode ++ slot), ?_, ?_⟩
    · rw [encode, add_assoc, mul_two_pow_add_eq_toNat_append, mul_two_pow_add_eq_toNat_append]
  case' emit.refl code => refine ⟨0x6, by decide, 12, by decide, code, rfl, ?_⟩
  case' byteOut.refl b => refine ⟨0x7, by decide, 8, by decide, b, rfl, ?_⟩
  case' blockFlush.refl => refine ⟨0x8, by decide, 0, by decide, 0#0, rfl, ?_⟩
  case' headerOut.refl init => refine ⟨0x9, by decide, 4, by decide, init, rfl, ?_⟩
  case' terminatorOut.refl => refine ⟨0xA, by decide, 0, by decide, 0#0, rfl, ?_⟩
  case' sinkWrite.refl b => refine ⟨0xB, by decide, 8, by decide, b, rfl, ?_⟩
  case' validate.refl => refine ⟨0xC, by decide, 0, by decide, 0#0, rfl, ?_⟩
  all_goals
    simp (disch := decide) only [callFields, uop_encodePrimitive, field_encodePrimitive_operands, Nat.sub_add_eq, Nat.reduceSub,
      field_append_of_le, field_append_high, field_all]

/-- The operation that the decoder reads from a call word has the word with the same UOP and operands. -/
theorem encode_of_callFields {w : BitVec 56} {i : Instr} {top : Nat} (h : callFields w = .ok (i, top)) :
    i.format = .primitive ∧ 8 ≤ top ∧ top ≤ 56 ∧
      encode i = (encodePrimitive (field w 0 4).toNat (field w 8 (top - 8)).toNat).toNat := by
  unfold callFields at h
  split at h <;> rename_i huop <;> cases h
  all_goals
    refine ⟨rfl, by decide, by decide, ?_⟩
    simp (disch := decide) only [encode, huop, Nat.reduceSub, add_assoc, mul_two_pow_add_eq_toNat_append, field_append_field,
      BitVec.toNat_of_zero_length]

/-- A call word is decoded to the well-formed primitive it is the word of. -/
theorem decodePrimitive_eq_ok_iff {w : BitVec 56} {i : Instr} :
    decodePrimitive w = .ok i ↔ i.format = .primitive ∧ i.wellFormed = true ∧ encode i = w.toNat := by
  constructor
  · intro h
    unfold decodePrimitive at h
    split at h
    case h_1 j top hf =>
      split_ifs at h with hok
      cases h
      obtain ⟨hz, ht, hwf⟩ := hok
      obtain ⟨hformat, h8, h56, he⟩ := encode_of_callFields hf
      rw [← Nat.add_sub_of_le h8] at ht
      exact ⟨hformat, hwf, he.trans (congrArg _ (encodePrimitive_fields (by omega) hz ht))⟩
    case h_2 => cases h
  · rintro ⟨hformat, hwf, he⟩
    obtain ⟨uop, hu, n, hn, v, henc, hf⟩ := callFields_encode hformat
    obtain rfl : encodePrimitive uop v.toNat = w := BitVec.eq_of_toNat_eq (henc.symm.trans he)
    rw [decodePrimitive, hf]
    exact if_pos ⟨reserved_encodePrimitive hn hu v, encodePrimitive_shiftRight hu v, hwf⟩

/-! ### Host transactions (R98) -/

theorem decodeHost_encodeHost (we : Bool) (idx : BitVec 4) (wdata : Word) :
    decodeHost (encodeHost we idx wdata) = if we then .csrWrite idx wdata else .csrRead idx := by
  simp (disch := decide) only [decodeHost, encodeHost, field_append_low, field_append_high, getLsbD_append_high, Nat.reduceSub]
  cases we <;> rfl

/-- A CSR write has one transaction. -/
theorem encode_of_decodeHost {hb : BitVec 37} {idx : BitVec 4} {wdata : Word} (h : decodeHost hb = .csrWrite idx wdata) :
    encode (.csrWrite idx wdata) = hb.toNat := by
  unfold decodeHost at h
  split_ifs at h with hwe
  cases h
  have we : BitVec.ofBool true = field hb 36 1 := by
    ext i hi
    obtain rfl : i = 0 := by omega
    simp [field, hwe]
  have whole : field hb 36 1 ++ field hb 32 4 ++ field hb 0 32 = hb := by
    rw [field_append_field hb (by decide), field_append_field hb (by decide), field_all]
  rw [encode, encodeHost, we, whole]

/-! ### Every format -/

theorem exists_toNat_eq_of_decode {f : Format} {w : Nat} {i : Instr} (h : decode f w = .ok i) :
    ∃ v : BitVec f.width, v.toNat = w := by
  unfold decode at h
  split_ifs at h with hw
  exact ⟨BitVec.ofNat _ w, (BitVec.toNat_ofNat _ _).trans (Nat.mod_eq_of_lt (Nat.lt_of_not_le hw))⟩

theorem decode_dispatch (dv : BitVec 8) : decode .dispatch dv.toNat = decodeDispatch dv := by
  simp [decode, Format.width, dv.isLt]

theorem decode_host (hb : BitVec 37) : decode .host hb.toNat = .ok (decodeHost hb) := by
  simp [decode, Format.width, hb.isLt]

theorem decode_signal (rst : BitVec 1) : decode .signal rst.toNat = decodeSignal rst := by
  simp [decode, Format.width, rst.isLt]

theorem decode_primitive (call : BitVec 56) : decode .primitive call.toNat = decodePrimitive call := by
  simp [decode, Format.width, call.isLt]

/-- The dispatch vector selects an operation of R100's rows. -/
theorem wellFormed_and_format_of_decodeDispatch {dv : BitVec 8} {i : Instr} (h : decodeDispatch dv = .ok i) :
    i.wellFormed = true ∧ i.format = .dispatch := by
  have rows : ∀ r ∈ dispatchRows, r.op.wellFormed = true ∧ r.op.format = .dispatch := by decide
  unfold decodeDispatch at h
  split_ifs at h
  split at h <;> cases h
  case h_1.refl r found => exact rows r (List.mem_of_find?_eq_some found)

theorem decodeHost_cases (hb : BitVec 37) :
    (∃ idx wdata, decodeHost hb = .csrWrite idx wdata) ∨ ∃ idx, decodeHost hb = .csrRead idx := by
  unfold decodeHost
  split_ifs
  · exact .inl ⟨_, _, rfl⟩
  · exact .inr ⟨_, rfl⟩

theorem eq_reset_of_decodeSignal {rst : BitVec 1} {i : Instr} (h : decodeSignal rst = .ok i) : i = .reset := by
  unfold decodeSignal at h
  split_ifs at h
  exact (Except.ok.inj h).symm

end Sys2Proof

open Sys2Proof Sys2Proof.Machine

/-- Settles O3: the fields of a host transaction and of a call word are read back; the other words are fixed. -/
theorem decodeUndoesEncode : Obligations.DecodeUndoesEncode := by
  intro i hwf
  cases hf : i.format with
  | primitive =>
    obtain ⟨_, _, _, _, _, henc, _⟩ := callFields_encode hf
    rw [henc, decode_primitive, decodePrimitive_eq_ok_iff]
    exact ⟨hf, hwf, henc⟩
  | host =>
    cases i with
    | csrRead idx => rw [encode, decode_host, decodeHost_encodeHost]; rfl
    | csrWrite idx wdata => rw [encode, decode_host, decodeHost_encodeHost]; rfl
    | _ => cases hf
  | signal => cases i <;> cases hf; decide
  | dispatch => cases i <;> cases hf <;> decide

/-- Settles O4: a call word and the word of a CSR write are their fields one above the other. -/
theorem encodeUndoesDecode : Obligations.EncodeUndoesDecode := by
  intro f w i h
  obtain ⟨v, rfl⟩ := exists_toNat_eq_of_decode h
  cases f with
  | dispatch =>
    obtain ⟨hwf, hf⟩ := wellFormed_and_format_of_decodeDispatch ((decode_dispatch v).symm.trans h)
    refine ⟨hwf, hf, nofun, ?_⟩
    rintro idx wdata rfl
    cases hf
  | host =>
    have hi := Except.ok.inj ((decode_host v).symm.trans h)
    rcases decodeHost_cases v with ⟨idx, wdata, hv⟩ | ⟨idx, hv⟩
    · obtain rfl := hv.symm.trans hi
      refine ⟨rfl, rfl, nofun, ?_⟩
      rintro _ _ ⟨⟩
      exact encode_of_decodeHost hv
    · obtain rfl := hv.symm.trans hi
      exact ⟨rfl, rfl, nofun, nofun⟩
  | signal =>
    obtain rfl := eq_reset_of_decodeSignal ((decode_signal v).symm.trans h)
    exact ⟨rfl, rfl, nofun, nofun⟩
  | primitive =>
    obtain ⟨hf, hwf, he⟩ := decodePrimitive_eq_ok_iff.1 ((decode_primitive v).symm.trans h)
    exact ⟨hwf, hf, fun _ => he, fun _ _ _ => he⟩

/-- Settles O1: each word is evaluated. -/
theorem wordsOfTheSpecDecode : Obligations.WordsOfTheSpecDecode := by
  unfold Obligations.WordsOfTheSpecDecode
  decide
end
